-- ==== Sys2Proof/Config.lean ====
section
/-! DEFINITION. The implementation parameters of spec/00_scope.md section 4. The widths of R5, R6 and R7 are the types of
Word.lean; PC_BITS (R8) is an argument of the launch (Machine/Ops.lean). UNVERIFIED: the literals were never audited against
the repository (92 D26); they are normative for this spec (log entry 13). -/

namespace Sys2Proof.Config

/-- `MEM_SIZE` (R3): the number of cells of the data memory. -/
abbrev memSize : Nat := 1024

/-- `RECORD_LEN` (R4): the length in bytes of every instruction record. -/
abbrev recordLen : Nat := 5

/-- `OPERAND_WIDTH` (R5): the width in bits of the operand field. -/
abbrev operandWidth : Nat := 32

end Sys2Proof.Config
end

