-- ==== Sys2Proof/Word.lean ====
section
/-! DEFINITION. The word types of the block: what the spec treats as bit patterns. DESIGN CHOICE (log entry 1): the model is
of the one width W = 32 that R6 fixes. -/

namespace Sys2Proof

/-- One byte of the stream. -/
abbrev Byte := BitVec 8

/-- A W-bit pattern, W = 32: the accumulator (R6) and a memory cell (R7). -/
abbrev Word := BitVec 32

/-- The 32-bit operand field of a record (R5, R47). -/
abbrev Operand := BitVec 32

/-- A record read as one 40-bit word, byte 0 least significant (30_encoding.md, the 40-bit word view; R24). -/
abbrev Record := BitVec 40

end Sys2Proof
end

