-- ==== Sys2Proof/Machine/State.lean ====
section
/-! DEFINITION. The state of the block (spec/10_state.md), the state after reset (R110), and the
reasons a step or a launch can stop. -/

namespace Sys2Proof.Machine

/-- STATUS.STATE (R19). DESIGN CHOICE (log entry 8): the value 3, which R19 says is never produced, is not a value of the
type. -/
inductive RunState where
  /-- 0: a step is enabled. -/
  | running
  /-- 1: the stream is exhausted. -/
  | done
  /-- 2: a run-time error halted execution. -/
  | fault
deriving DecidableEq, Repr

/-- STATUS.CAUSE (R20). -/
inductive Cause where
  /-- 0: held in RUNNING and DONE. -/
  | none
  /-- 1 (R91). -/
  | truncatedStream
  /-- 2 (R92). -/
  | unknownOpcode
  /-- 3 (R93). -/
  | outOfBounds
deriving DecidableEq, Repr

/-- The three run faults that a step can raise (R90). They are entered (`State.raise`), not outcomes that stop the model:
each gives a next state with STATE = FAULT. -/
inductive RunFault where
  | truncatedStream
  | unknownOpcode
  | outOfBounds
deriving DecidableEq, Repr

/-- The data memory (R13): the cells that do not hold 0, as (cell index, value) pairs in rising order of the index
(`Memory.wf`). Data memory is addressed by whole cells and a cell has no byte view (R34), so a cell is the unit (log
entry 5). -/
abbrev Memory := List (Nat × Word)

/-- The whole state of the block: the table of spec/10_state.md, and the launch parameter S. -/
structure State where
  /-- ACC, the accumulator (R11, R12). -/
  acc : Word
  /-- MEM, the 1024-cell data memory (R13). -/
  mem : Memory
  /-- PC, a byte offset into the stream, an unbounded natural (R14, R8). -/
  pc : Nat
  /-- STATUS.STATE (R18, R19). -/
  runState : RunState
  /-- STATUS.CAUSE (R18, R20). -/
  cause : Cause
  /-- FAULT_PC (R21). -/
  faultPc : Nat
  /-- FAULT_INFO (R22). -/
  faultInfo : Word
  /-- IR, the transient instruction latch (R24). -/
  ir : Record
  /-- MAR, the transient memory address latch (R25). -/
  mar : Word
  /-- MDR, the transient memory data latch (R26). -/
  mdr : Word
  /-- S, the launch parameter (R9): not state of the block (R28), carried here because a step is a function of State alone
  (log entry 4). L is its length. -/
  stream : List Byte
deriving DecidableEq, Repr

/-- The reasons a step is stuck: R65 enables no step in DONE and in FAULT. -/
inductive Fault where
  /-- Raised by `step` in STATE = DONE: the run is over and no step is enabled (R65, 93 U4). Safe. -/
  | runOver
  /-- Raised by `step` in STATE = FAULT: a run fault halted the block and no step is enabled until reset (R65, R99). Safe. -/
  | halted
deriving DecidableEq, Repr

/-- The reasons for a refusal. -/
inductive Refusal where
  /-- An instruction that has no meaning in the model yet. No arm answers it. Safe. -/
  | notModelled (mnemonic : String)
  /-- Raised by `launch`: the stream is longer than PC_BITS allows (R8, 92 D3). Safe. -/
  | streamTooLong
deriving DecidableEq, Repr

/-- What the result port answers (R43, R44). -/
inductive PortAnswer where
  /-- The cells of the slice, lowest first. -/
  | cells (values : List Word)
  /-- The port error OutOfBounds, which is no run fault (R94). -/
  | outOfBounds
  /-- The read is refused: STATE is not DONE (R44). -/
  | refused
deriving DecidableEq, Repr

/-- The read-only debug outputs, driven at all times (R104). -/
structure DebugOutputs where
  acc : Word
  pc : Nat
  status : BitVec 8
  faultPc : Nat
  faultInfo : Word
deriving DecidableEq, Repr

/-- The block right after reset (R110), no stream supplied. DESIGN CHOICE (log entry 2): the latches IR, MAR and MDR, whose
reset values the spec leaves unspecified, hold 0. -/
def State.reset : State where
  acc := 0
  mem := []
  pc := 0
  runState := .running
  cause := .none
  faultPc := 0
  faultInfo := 0
  ir := 0
  mar := 0
  mdr := 0
  stream := []

end Sys2Proof.Machine
end

