-- ==== Sys2Proof/Syntax.lean ====
section
/-! DEFINITION. The syntax: the closed opcode set (R2), the instructions, and the symbolic records of the assembler (R54). -/

namespace Sys2Proof

/-- The closed set of opcodes (R2, R51). -/
inductive Opcode where
  | loadConst
  | loadMemory
  | storeMemory
  | notAcc
deriving DecidableEq, Repr

/-- The instructions: one constructor per row of spec/opcode_table.json. Each carries its record's 32-bit operand, the two
that ignore it too (R49): every operand value is legal. -/
inductive Instr where
  /-- LOAD_CONST (R80). -/
  | loadConst (operand : Operand)
  /-- LOAD_MEMORY (R81); the operand is ignored. -/
  | loadMemory (operand : Operand)
  /-- STORE_MEMORY (R82). -/
  | storeMemory (operand : Operand)
  /-- NOT (R85); the operand is ignored. -/
  | notAcc (operand : Operand)
deriving DecidableEq, Repr

/-- The opcode of an instruction. -/
def Instr.opcode : Instr → Opcode
  | .loadConst _ => .loadConst
  | .loadMemory _ => .loadMemory
  | .storeMemory _ => .storeMemory
  | .notAcc _ => .notAcc

/-- The operand of an instruction. -/
def Instr.operand : Instr → Operand
  | .loadConst x => x
  | .loadMemory x => x
  | .storeMemory x => x
  | .notAcc x => x

/-- The instruction with this opcode and operand. -/
def Opcode.instr : Opcode → Operand → Instr
  | .loadConst => .loadConst
  | .loadMemory => .loadMemory
  | .storeMemory => .storeMemory
  | .notAcc => .notAcc

/-- One record of a symbolic program (R54): a command name and an optional operand. The operand is an integer here so that
the negative ones, which the assembler refuses (R56), can be written down. -/
structure SymRecord where
  command : String
  operand : Option Int
deriving DecidableEq, Repr

end Sys2Proof
end

