-- ==== Sys2Proof/WellFormed.lean ====
section
/-! DEFINITION. Well-formedness: what the encoder, the assembler and the launch may be given. -/

namespace Sys2Proof

/-- The operand range of the encoder (R53): 0 to 2^32 - 1. -/
def operandInRange (x : Nat) : Bool := decide (x < 2 ^ Config.operandWidth)

/-- A well-formed instruction has an operand in the encoder's range (R53). The operand's type makes every instruction
well-formed (`Instr.wf_eq_true`), as R49 and R51 ask: there is no reserved operand value. -/
def Instr.wf (i : Instr) : Bool := operandInRange i.operand.toNat

/-- The command names are exactly the four mnemonics (R54, R55). -/
def commandKnown (command : String) : Bool :=
  ["LOAD_CONST", "LOAD_MEMORY", "STORE_MEMORY", "NOT"].contains command

/-- A symbolic record that the assembler accepts: a known command (R55) and no negative operand (R56). -/
def SymRecord.wf (r : SymRecord) : Bool :=
  commandKnown r.command && decide (0 ≤ r.operand.getD 0)

/-- The launch condition of R8: L ≤ 2^PC_BITS - 1. -/
def streamFits (pcBits : Nat) (stream : List Byte) : Bool :=
  decide (stream.length ≤ 2 ^ pcBits - 1)

end Sys2Proof
end

