-- ==== Sys2Proof/Machine/Ops.lean ====
section
/-! DEFINITION. The shared operations: data memory, the stream, the field updates, fault entry, the terminating transition,
reset and launch, and the host's read ports. -/

namespace Sys2Proof.Machine

/-! ## Data memory -/

/-- MEM[a]: an unlisted cell holds 0, its reset value (R13, R38). -/
def Memory.read : Memory → Nat → Word
  | [], _ => 0#32
  | (b, w) :: rest, a => if a = b then w else Memory.read rest a

/-- MEM[a] <- v (R33). Storing 0 removes the entry, so that equal memories are equal lists. -/
def Memory.write : Memory → Nat → Word → Memory
  | [], a, v => if v = 0#32 then [] else [(a, v)]
  | (b, w) :: rest, a, v =>
    if a < b then (if v = 0#32 then (b, w) :: rest else (a, v) :: (b, w) :: rest)
    else if a = b then (if v = 0#32 then rest else (a, v) :: rest)
    else (b, w) :: Memory.write rest a v

/-- The canonical form from cell `low` on: strictly rising indices, each an existing cell, no listed 0. -/
def Memory.wfFrom : Nat → Memory → Bool
  | _, [] => true
  | low, (a, v) :: rest =>
    decide (low ≤ a) && decide (a < Config.memSize) && decide (v ≠ 0#32) && Memory.wfFrom (a + 1) rest

/-- The canonical form of a data memory. -/
def Memory.wf (m : Memory) : Bool := Memory.wfFrom 0 m

/-- The address check of R31: unsigned, on every bit of the address. -/
def validAddress (a : Word) : Bool := decide (a.toNat < Config.memSize)

/-! ## The stream -/

/-- L, the length of the stream (R9). -/
def State.streamLen (s : State) : Nat := s.stream.length

/-- `StreamRead(a, n)`: defined only when a + n ≤ L (00_scope.md section 6). -/
def State.streamRead (s : State) (a n : Nat) : Option (List Byte) :=
  if a + n ≤ s.streamLen then some ((s.stream.drop a).take n) else none

/-! ## Field updates -/

/-- ACC <- v. -/
def State.setAcc (s : State) (v : Word) : State := { s with acc := v }

/-- IR <- r (R24, R68). -/
def State.setIr (s : State) (r : Record) : State := { s with ir := r }

/-- MAR <- a (R25). -/
def State.setMar (s : State) (a : Word) : State := { s with mar := a }

/-- MDR <- v (R26). -/
def State.setMdr (s : State) (v : Word) : State := { s with mdr := v }

/-- `MemRead(a, 1)` (R32): the caller has checked the address. -/
def State.memRead (s : State) (a : Word) : Word := Memory.read s.mem a.toNat

/-- `MemWrite(a, 1, v)` (R33): the caller has checked the address. -/
def State.memWrite (s : State) (a v : Word) : State := { s with mem := Memory.write s.mem a.toNat v }

/-- pc <- PC + 5, the last write of a step that completes its record (R16, R72). -/
def State.advance (s : State) : State := { s with pc := s.pc + Config.recordLen }

/-- The terminating transition: STATE <- DONE and nothing else (R66). -/
def State.finish (s : State) : State := { s with runState := .done }

/-! ## Fault entry -/

/-- The CAUSE that a run fault records (R90). -/
def RunFault.cause : RunFault → Cause
  | .truncatedStream => .truncatedStream
  | .unknownOpcode => .unknownOpcode
  | .outOfBounds => .outOfBounds

/-- Fault entry, `raise F(info)` (R97): exactly the four status fields change. There is no return from it (R99). DEDUCED (log
entry 3): a latch that the step wrote before the raise keeps what was written. -/
def State.raise (s : State) (f : RunFault) (info : Word) : State :=
  { s with runState := .fault, cause := f.cause, faultPc := s.pc, faultInfo := info }

/-! ## The checked data access -/

/-- The address check on MAR that stands before the data access of LOAD_MEMORY and STORE_MEMORY (R31, R81, R82): the access
and the PC advance (R72), or OutOfBounds with MAR as its info (R93). -/
def State.checkedAccess (s : State) (access : State → State) : Host.Outcome State Fault Refusal :=
  if validAddress s.mar then .next (access s).advance else .next (s.raise .outOfBounds s.mar)

/-- MDR <- MemRead(MAR, 1), and then ACC takes it (R26, R81). -/
def State.loadCell (s : State) : State :=
  let latched := s.setMdr (s.memRead s.mar)
  latched.setAcc latched.mdr

/-- MDR <- ACC, and then MemWrite(MAR, 1, MDR) (R26, R82). -/
def State.storeCell (s : State) : State :=
  let latched := s.setMdr s.acc
  latched.memWrite latched.mar latched.mdr

/-! ## The host's moves: reset and launch -/

/-- The host supplies S (R113 step 1). -/
def State.supplyStream (s : State) (stream : List Byte) : State := { s with stream := stream }

/-- The host asserts reset, in any STATE: the whole state is replaced, S and L are not touched (R110, R111). -/
def State.hostReset (s : State) : State := State.reset.supplyStream s.stream

/-- Boot with the stream S: supply it, then reset (R113 steps 1 and 2). -/
def boot (stream : List Byte) : State := (State.reset.supplyStream stream).hostReset

/-- Launch a run on a build with `pcBits` bits of PC: refused when the stream is too long for them (R8, R113). -/
def launch (pcBits : Nat) (stream : List Byte) : Host.Outcome State Fault Refusal :=
  if streamFits pcBits stream then .next (boot stream) else .refused .streamTooLong

/-! ## The host's read ports -/

/-- `ResultRead(start, end)` (R43), defined only in DONE (R44). It answers a value and gives no new state: the read changes
none. -/
def State.resultRead (s : State) (start : Nat := 0) (stop : Nat := Config.memSize) : PortAnswer :=
  match s.runState with
  | .running => .refused
  | .fault => .refused
  | .done =>
    if start ≤ stop ∧ stop ≤ Config.memSize then
      .cells ((List.range (stop - start)).map fun k => Memory.read s.mem (start + k))
    else .outOfBounds

/-- `DebugMem(a)`, in any STATE (R104). DESIGN CHOICE (log entry 11): no answer for a cell that does not exist. -/
def State.debugMem (s : State) (a : Nat) : Option Word :=
  if a < Config.memSize then some (Memory.read s.mem a) else none

end Sys2Proof.Machine
end

