-- ==== Sys2Proof/Machine/Operands.lean ====
section
/-! DEFINITION. The operand forms: zero extension and the three addressing modes (41_data_movement.md, "Addressing modes"). -/

namespace Sys2Proof.Machine

/-- `zext_W`: zero extension to W = 32 bits (00_scope.md section 6; R47). -/
def zextW {n : Nat} (v : BitVec n) : Word := v.setWidth 32

/-- Immediate: the value is `zext_W(operand)` (R80). -/
def immediate (operand : Operand) : Word := zextW operand

/-- Absolute: the effective address is `zext_W(operand)` (R82). -/
def absoluteAddress (operand : Operand) : Word := zextW operand

/-- Accumulator-indirect: the effective address is ACC (R81). -/
def State.indirectAddress (s : State) : Word := s.acc

end Sys2Proof.Machine
end

