-- ==== Sys2Proof/Machine/DataMovement.lean ====
section
/-! DEFINITION. The data movement family (spec/41_data_movement.md): the dispatched action of each instruction, with the PC
advance of R72 when it raises no fault. -/

namespace Sys2Proof.Machine

/-- LOAD_CONST (R80): ACC <- zext_W(operand). -/
def execLoadConst (operand : Operand) (s : State) : Host.Outcome State Fault Refusal :=
  .next (s.setAcc (immediate operand)).advance

/-- LOAD_MEMORY (R81): MAR <- ACC, then ACC <- MEM[MAR] through MDR if the address is valid. The operand is ignored (R49). -/
def execLoadMemory (_operand : Operand) (s : State) : Host.Outcome State Fault Refusal :=
  (s.setMar s.indirectAddress).checkedAccess State.loadCell

/-- STORE_MEMORY (R82): MAR <- zext_W(operand), then MEM[MAR] <- ACC through MDR if the address is valid. -/
def execStoreMemory (operand : Operand) (s : State) : Host.Outcome State Fault Refusal :=
  (s.setMar (absoluteAddress operand)).checkedAccess State.storeCell

end Sys2Proof.Machine
end

