-- ==== Sys2Proof/Machine/Logical.lean ====
section
/-! DEFINITION. The logical family (spec/42_logical.md). -/

namespace Sys2Proof.Machine

/-- NOT (R85): ACC <- ~ACC. The operand is ignored (R49). -/
def execNot (_operand : Operand) (s : State) : Host.Outcome State Fault Refusal :=
  .next (s.setAcc (~~~s.acc)).advance

end Sys2Proof.Machine
end

