-- ==== Sys2Proof/Machine/Dispatch.lean ====
section
/-! DEFINITION. The opcode multiplexer's dispatch (R71): one arm per instruction. -/

namespace Sys2Proof.Machine

def exec (i : Instr) (s : State) : Host.Outcome State Fault Refusal :=
  match i with
  | .loadConst operand => Sys2Proof.Machine.execLoadConst operand s
  | .loadMemory operand => Sys2Proof.Machine.execLoadMemory operand s
  | .storeMemory operand => Sys2Proof.Machine.execStoreMemory operand s
  | .notAcc operand => Sys2Proof.Machine.execNot operand s

end Sys2Proof.Machine
end

