-- ==== Sys2Proof/Decode.lean ====
section
/-! DEFINITION. The decoder (R45, R46, R48 to R52, R69, R70), the encoder (R53, R58) and the assembler's contract (R54 to
R56). -/

namespace Sys2Proof

/-! ## The opcode map -/

/-- The opcode map (R48). -/
def opcodeByte : Opcode → Byte
  | .loadConst => 0x3E
  | .loadMemory => 0x58
  | .storeMemory => 0x39
  | .notAcc => 0x89

/-! ## The decoder -/

/-- The record as one word, byte 0 least significant (R45, R24). -/
def packRecord (bytes : List Byte) : Record :=
  BitVec.ofNat 40 (bytes.foldr (fun b high => b.toNat + 256 * high) 0)

/-- The raw opcode byte of a record: `IR[7:0]` (R46, R69). -/
def opcodeField (r : Record) : Byte := r.extractLsb' 0 8

/-- The operand of a record: `IR[39:8]` (R46, R69). -/
def operandField (r : Record) : Operand := r.extractLsb' 8 32

/-- The select line of LOAD_CONST (R70). -/
def selLoadConst (b : Byte) : Bool := b == opcodeByte .loadConst

/-- The select line of LOAD_MEMORY (R70). -/
def selLoadMemory (b : Byte) : Bool := b == opcodeByte .loadMemory

/-- The select line of STORE_MEMORY (R70). -/
def selStoreMemory (b : Byte) : Bool := b == opcodeByte .storeMemory

/-- The select line of NOT (R70). -/
def selNot (b : Byte) : Bool := b == opcodeByte .notAcc

/-- The `illegal` select line (R70, R50). -/
def illegal (b : Byte) : Bool :=
  !(selLoadConst b || selLoadMemory b || selStoreMemory b || selNot b)

/-- The opcode that the select lines pick (R71); `none` on the `illegal` line. -/
def selectOpcode (b : Byte) : Option Opcode :=
  if selLoadConst b then some .loadConst
  else if selLoadMemory b then some .loadMemory
  else if selStoreMemory b then some .storeMemory
  else if selNot b then some .notAcc
  else none

/-- What the decoder says of some bytes: an instruction, or a rejection by name. -/
inductive Decoded where
  /-- The bytes begin with the record of this instruction. -/
  | ok (i : Instr)
  /-- Fewer than RECORD_LEN bytes; how many there are (R67, R91). -/
  | truncated (left : Nat)
  /-- A whole record whose opcode byte is outside the closed set (R50, R92). -/
  | unknownOpcode (b : Byte)
deriving DecidableEq, Repr

/-- Decode one complete record (R69 to R71): `none` when its opcode byte is illegal. -/
def decodeRecord (r : Record) : Option Instr :=
  match selectOpcode (opcodeField r) with
  | some op => some (op.instr (operandField r))
  | none => none

/-- Decode the record at the head of any bytes. The boundary check comes before the opcode check (R96). -/
def decode (bytes : List Byte) : Decoded :=
  if bytes.length < Config.recordLen then .truncated bytes.length
  else
    match decodeRecord (packRecord (bytes.take Config.recordLen)) with
    | some i => .ok i
    | none => .unknownOpcode (opcodeField (packRecord (bytes.take Config.recordLen)))

/-! ## The encoder -/

/-- `encode(op, x)` (R53). -/
def encodeRecord (op : Opcode) (x : Operand) : List Byte :=
  [opcodeByte op, x.extractLsb' 0 8, x.extractLsb' 8 8, x.extractLsb' 16 8, x.extractLsb' 24 8]

/-- The record of an instruction. -/
def encode (i : Instr) : List Byte := encodeRecord i.opcode i.operand

/-- The binary stream of a program: its records in program order (R58). -/
def encodeProgram (program : List Instr) : List Byte := program.flatMap encode

/-! ## The assembler's contract: outside the block (00_scope.md section 3), given by R54 to R56 -/

/-- The errors of the assembler. None of them is a fault of the block (R95). -/
inductive AsmError where
  /-- `UnknownCommand`: the command name is not one of the four (R55). -/
  | unknownCommand (command : String)
  /-- A negative symbolic operand, refused by the assembler's contract (R56). -/
  | negativeOperand (operand : Int)
deriving DecidableEq, Repr

/-- Resolve a command name (R54, R55). -/
def resolveCommand (command : String) : Option Opcode :=
  if command = "LOAD_CONST" then some .loadConst
  else if command = "LOAD_MEMORY" then some .loadMemory
  else if command = "STORE_MEMORY" then some .storeMemory
  else if command = "NOT" then some .notAcc
  else none

/-- Assemble one symbolic record: an absent operand is 0 (R54), an over-wide one keeps its low 32 bits (R56). DESIGN CHOICE
(log entry 15): the command name is resolved before the operand is looked at. -/
def assembleRecord (r : SymRecord) : Except AsmError Instr :=
  match resolveCommand r.command with
  | none => .error (.unknownCommand r.command)
  | some op =>
    if r.operand.getD 0 < 0 then .error (.negativeOperand (r.operand.getD 0))
    else .ok (op.instr (BitVec.ofNat 32 (r.operand.getD 0).toNat))

/-- Resolve a whole symbolic program; the first record the assembler rejects aborts it, and no partial program is left
(R55). -/
def assembleProgram : List SymRecord → Except AsmError (List Instr)
  | [] => .ok []
  | r :: rest =>
    match assembleRecord r with
    | .error e => .error e
    | .ok i =>
      match assembleProgram rest with
      | .error e => .error e
      | .ok is => .ok (i :: is)

/-- Assemble a symbolic program into its binary stream (R54 to R58). -/
def assemble (program : List SymRecord) : Except AsmError (List Byte) :=
  match assembleProgram program with
  | .error e => .error e
  | .ok is => .ok (encodeProgram is)

/-! ## The host's numbering of an instruction's bits -/

/-- The record whose 40 bits are the low `nbits` bits of `w`, the bits above them zero, as the stream holds it: bit 0 of `w`
is bit 0 of byte 0. -/
def tableWordBytes (nbits w : Nat) : List Byte :=
  let v := w % 2 ^ nbits
  [BitVec.ofNat 8 v, BitVec.ofNat 8 (v / 2 ^ 8), BitVec.ofNat 8 (v / 2 ^ 16), BitVec.ofNat 8 (v / 2 ^ 24),
    BitVec.ofNat 8 (v / 2 ^ 32)]

/-- The instruction that the decoder reads from a table word. -/
def decodeTableWord (nbits w : Nat) : Option Instr :=
  match decode (tableWordBytes nbits w) with
  | .ok i => some i
  | .truncated _ => none
  | .unknownOpcode _ => none

end Sys2Proof
end

