-- ==== Sys2Proof/Machine/Fetch.lean ====
section
/-! DEFINITION. The stream parser (spec/40_stream_parser.md, R66 to R68): what fetching at PC gives, and where the host's
fetch word is placed. -/

namespace Sys2Proof.Machine

/-- What the stream parser finds at PC. -/
inductive Fetched where
  /-- PC ≥ L: the stream is exhausted (R66). -/
  | endOfStream
  /-- 1 to 4 bytes are left (R67). -/
  | truncated (left : Nat)
  /-- A complete record (R68). -/
  | record (r : Record)
deriving DecidableEq, Repr

/-- The checks of the stream parser, in the order of R73. -/
def State.fetch (s : State) : Fetched :=
  if s.streamLen ≤ s.pc then .endOfStream
  else
    match s.streamRead s.pc Config.recordLen with
    | none => .truncated (s.streamLen - s.pc)
    | some bytes => .record (packRecord bytes)

/-- TruncatedStream (R67, R91): FAULT_INFO is the number of bytes left. -/
def State.raiseTruncated (s : State) (left : Nat) : State :=
  s.raise .truncatedStream (BitVec.ofNat 32 left)

/-- UnknownOpcode (R71, R92): FAULT_INFO is the rejected opcode byte. -/
def State.raiseUnknown (s : State) (b : Byte) : State :=
  s.raise .unknownOpcode (zextW b)

/-- `s` with `bytes` standing in the stream at PC, the bytes before PC and after them as they were (zeros where the stream
was shorter than PC), and the block RUNNING, which a fetch needs (log entry 16). -/
def State.placeAtPc (s : State) (bytes : List Byte) : State :=
  { s with
    runState := .running
    stream := (s.stream ++ List.replicate (s.pc - s.streamLen) 0).take s.pc ++ bytes ++
      s.stream.drop (s.pc + bytes.length) }

end Sys2Proof.Machine
end

