-- ==== Sys2Proof/Machine/Step.lean ====
section
/-! DEFINITION. One step of the block (R73), and the host's fetch word. -/

namespace Sys2Proof.Machine

/-- One step (R73): no step is enabled in DONE and FAULT (R65); at the end of the stream the run is done (R66); a short tail
raises TruncatedStream (R67); a complete record is latched in IR (R68), decoded (R69) and dispatched, or raises UnknownOpcode
(R71). -/
def step (s : State) : Host.Outcome State Fault Refusal :=
  match s.runState with
  | .done => .fault .runOver
  | .fault => .fault .halted
  | .running =>
    match s.fetch with
    | .endOfStream => .next s.finish
    | .truncated left => .next (s.raiseTruncated left)
    | .record r =>
      match decodeRecord (s.setIr r).ir with
      | some i => exec i (s.setIr r)
      | none => .next ((s.setIr r).raiseUnknown (opcodeField (s.setIr r).ir))

/-- `s` with the record of the table word `w` where `step` fetches next: in the stream at PC. -/
def State.withFetchWord (s : State) (nbits w : Nat) : State := s.placeAtPc (tableWordBytes nbits w)

end Sys2Proof.Machine
end

