-- ==== Sys2Proof/Machine/Flags.lean ====
section
/-! DEFINITION. The block has no flags and no condition codes (R23): no instruction computes one. What it has is the STATUS
output register (R18), whose word is computed here from its two fields, and the other debug outputs (R104). -/

namespace Sys2Proof.Machine

/-- The number of a STATE value (R19). -/
def RunState.code : RunState → BitVec 2
  | .running => 0
  | .done => 1
  | .fault => 2

/-- The number of a CAUSE value (R20). -/
def Cause.code : Cause → BitVec 2
  | .none => 0
  | .truncatedStream => 1
  | .unknownOpcode => 2
  | .outOfBounds => 3

/-- The STATUS word (R18): STATE in bits [1:0], CAUSE in bits [3:2], the reserved bits [7:4] zero. -/
def State.status (s : State) : BitVec 8 := (0#4 ++ s.cause.code) ++ s.runState.code

/-- The debug outputs (R104). -/
def State.debugOutputs (s : State) : DebugOutputs where
  acc := s.acc
  pc := s.pc
  status := s.status
  faultPc := s.faultPc
  faultInfo := s.faultInfo

end Sys2Proof.Machine
end

