-- ==== Sys2Proof/Safety.lean ====
section
/-! DEFINITION. The terms that claims use: a valid result, the invariant of R14, R19 to R22, runs of many steps, the stores a
run makes, and the state with its transient latches erased. -/

namespace Sys2Proof.Machine

/-- A run's output is valid only when STATE = DONE (R106). -/
def State.validResult (s : State) : Prop := s.runState = .done

/-- Why FAULT_INFO and CAUSE are what they are in STATE = FAULT (R22, R90): what the stream and ACC show at PC. -/
def State.faultExplained (s : State) : Prop :=
  match s.cause with
  | .none => False
  | .truncatedStream =>
    s.pc < s.streamLen ∧ s.streamLen < s.pc + Config.recordLen ∧ s.faultInfo.toNat = s.streamLen - s.pc
  | .unknownOpcode =>
    ∃ b : Byte, decode (s.stream.drop s.pc) = .unknownOpcode b ∧ s.faultInfo.toNat = b.toNat
  | .outOfBounds =>
    Config.memSize ≤ s.faultInfo.toNat ∧
      ((∃ x, decode (s.stream.drop s.pc) = .ok (.loadMemory x) ∧ s.faultInfo = s.acc) ∨
        (∃ x, decode (s.stream.drop s.pc) = .ok (.storeMemory x) ∧ s.faultInfo.toNat = x.toNat))

/-- The invariant of the block. -/
structure State.Inv (s : State) : Prop where
  /-- Data memory keeps its canonical form: existing cells only, each once. -/
  memWf : Memory.wf s.mem = true
  /-- PC is a multiple of 5 (R14). -/
  pcAligned : s.pc % Config.recordLen = 0
  /-- PC never passes the end of the stream (R14). -/
  pcInStream : s.pc ≤ s.streamLen
  /-- DONE is reached at the end of the stream only (R14, R66). -/
  doneAtEnd : s.runState = .done → s.pc = s.streamLen
  /-- Outside FAULT the fault fields hold their reset values (R20, R21, R22). -/
  noFault : s.runState ≠ .fault → s.cause = .none ∧ s.faultPc = 0 ∧ s.faultInfo = 0
  /-- In FAULT they name the record at PC and what was wrong with it (R20, R21, R22). -/
  fault : s.runState = .fault → s.faultPc = s.pc ∧ s.faultExplained

/-- The state after `n` steps, if that many are enabled. -/
def stepN : Nat → State → Option State
  | 0, s => some s
  | n + 1, s =>
    match step s with
    | .next t => stepN n t
    | .fault _ => none
    | .refused _ => none

/-- The store that the step from this state makes: the cell and the value, if its record is a STORE_MEMORY to an existing
cell (R82). -/
def State.storeMade (s : State) : Option (Nat × Word) :=
  match s.runState, decode (s.stream.drop s.pc) with
  | .running, .ok (.storeMemory x) => if x.toNat < Config.memSize then some (x.toNat, s.acc) else none
  | _, _ => none

/-- The stores that the first `n` steps make, earliest first. -/
def storesMade : Nat → State → List (Nat × Word)
  | 0, _ => []
  | n + 1, s =>
    match step s with
    | .next t => s.storeMade.toList ++ storesMade n t
    | .fault _ => []
    | .refused _ => []

/-- The value of the last of these stores to cell `a`, if there is one. -/
def lastStoreTo (a : Nat) : List (Nat × Word) → Option Word
  | [] => none
  | (b, w) :: rest =>
    match lastStoreTo a rest with
    | some v => some v
    | none => if b = a then some w else none

/-- The state with the transient latches IR, MAR and MDR erased: what R29 calls the architectural state. -/
def State.eraseLatches (s : State) : State := { s with ir := 0, mar := 0, mdr := 0 }

end Sys2Proof.Machine
end

