-- ==== Sys2Proof/Certificates/Slice0/Obligations.lean ====
section
/-! DEFINITION. The statements for the provers. Where a docstring says "over every state" it means every value of every
field, those that no run reaches too; the canonical form `Memory.wf` is a premise where a data cell is read after a write. -/

open Sys2Proof Sys2Proof.Machine

/-! ## Encoding -/

/-- R46: the opcode is B[0], raw; the operand is assembled little-endian from B[1] to B[4], in both of the rule's forms. -/
def Obligations.RecordFieldsAreLittleEndian : Prop :=
  ∀ b0 b1 b2 b3 b4 : Byte,
    opcodeField (packRecord [b0, b1, b2, b3, b4]) = b0 ∧
    (operandField (packRecord [b0, b1, b2, b3, b4])).toNat =
      b1.toNat + 256 * b2.toNat + 65536 * b3.toNat + 16777216 * b4.toNat ∧
    operandField (packRecord [b0, b1, b2, b3, b4]) = ((b4 ++ b3) ++ b2) ++ b1

/-- The five bytes of an encoded record (R53), each opcode with its byte of R48. -/
def Obligations.EncodeGivesTheRecordBytes : Prop :=
  ∀ x : Operand,
    let low := [x.extractLsb' 0 8, x.extractLsb' 8 8, x.extractLsb' 16 8, x.extractLsb' 24 8]
    encode (.loadConst x) = 0x3E#8 :: low ∧ encode (.loadMemory x) = 0x58#8 :: low ∧
    encode (.storeMemory x) = 0x39#8 :: low ∧ encode (.notAcc x) = 0x89#8 :: low

/-- Decode and encode agree, for every instruction (each one is well-formed, R49, R51) and whatever follows its record in the
stream. -/
def Obligations.DecodeEncode : Prop :=
  ∀ (i : Instr) (rest : List Byte), decode (encode i ++ rest) = .ok i

/-- The other direction: five bytes that decode to an instruction are that instruction's record, the ignored operands
included. -/
def Obligations.EncodeDecode : Prop :=
  ∀ (bytes : List Byte) (i : Instr), bytes.length = 5 → decode bytes = .ok i → encode i = bytes

/-- The decoder rejects by name, and exactly what R50 and R67 reject. -/
def Obligations.DecodeRejectsExactly : Prop :=
  (∀ (bytes : List Byte) (n : Nat), decode bytes = .truncated n ↔ bytes.length < 5 ∧ n = bytes.length) ∧
  (∀ (bytes : List Byte) (b : Byte), decode bytes = .unknownOpcode b ↔
    5 ≤ bytes.length ∧ bytes.head? = some b ∧ b ≠ 0x3E ∧ b ≠ 0x58 ∧ b ≠ 0x39 ∧ b ≠ 0x89)

/-- R48: the opcode map. The decoder matches all eight bits of the opcode byte, and gives the instruction with the operand of
the next four bytes; every byte outside the map is rejected under its own value. -/
def Obligations.OpcodeMap : Prop :=
  ∀ (b b1 b2 b3 b4 : Byte) (rest : List Byte),
    let operand : Operand := ((b4 ++ b3) ++ b2) ++ b1
    decode (b :: b1 :: b2 :: b3 :: b4 :: rest) =
      if b.toNat = 57 then .ok (.storeMemory operand)
      else if b.toNat = 62 then .ok (.loadConst operand)
      else if b.toNat = 88 then .ok (.loadMemory operand)
      else if b.toNat = 137 then .ok (.notAcc operand)
      else .unknownOpcode b

/-- The select lines compare the whole opcode byte, and exactly one of the five is true for every byte. -/
def Obligations.ExactlyOneSelectLine : Prop :=
  ∀ b : Byte,
    (selLoadConst b = true ↔ b = 0x3E) ∧ (selLoadMemory b = true ↔ b = 0x58) ∧
    (selStoreMemory b = true ↔ b = 0x39) ∧ (selNot b = true ↔ b = 0x89) ∧
    (illegal b = true ↔ b ≠ 0x3E ∧ b ≠ 0x58 ∧ b ≠ 0x39 ∧ b ≠ 0x89) ∧
    ([selLoadConst b, selLoadMemory b, selStoreMemory b, selNot b, illegal b].count true = 1)

/-- A sanity statement: the worked encodings of 95_test_vectors.md (L1-1 to L1-4, V2-1 to V2-4) decode to their
instructions. -/
def Obligations.WorkedEncodingsDecode : Prop :=
  decode [0x3E, 0x26, 0x00, 0x00, 0x00] = .ok (.loadConst 38) ∧
  decode [0x58, 0x00, 0x00, 0x00, 0x00] = .ok (.loadMemory 0) ∧
  decode [0x39, 0x70, 0x00, 0x00, 0x00] = .ok (.storeMemory 112) ∧
  decode [0x89, 0xB1, 0x02, 0x00, 0x00] = .ok (.notAcc 689) ∧
  decode [0x3E, 0x78, 0x56, 0x34, 0x12] = .ok (.loadConst 0x12345678) ∧
  decode [0x58, 0xFF, 0xFF, 0xFF, 0xFF] = .ok (.loadMemory 0xFFFFFFFF) ∧
  decode [0x39, 0xFF, 0x03, 0x00, 0x00] = .ok (.storeMemory 1023) ∧
  decode [0x89, 0x01, 0x00, 0x00, 0x80] = .ok (.notAcc 0x80000001)

/-! ## The instructions, from the bytes of their records

Each gives the whole architectural next state (R29): `State.eraseLatches` sets aside the transient latches, whose values no
rule reads across steps (`FetchLatchesRecord` and `MarMdrFollowTheAccess` say what the model leaves in them). -/

/-- R80: a LOAD_CONST record in the stream at PC. ACC takes the operand, PC advances, nothing else changes; there is no
condition and no fault. -/
def Obligations.StepLoadConst : Prop :=
  ∀ (s : State) (b1 b2 b3 b4 : Byte) (rest : List Byte), s.runState = .running →
    s.stream.drop s.pc = 0x3E#8 :: b1 :: b2 :: b3 :: b4 :: rest →
    ∃ t, step s = .next t ∧
      t.eraseLatches = { s.eraseLatches with acc := ((b4 ++ b3) ++ b2) ++ b1, pc := s.pc + 5 }

/-- R81: a LOAD_MEMORY record in the stream at PC, whatever its operand. Below 1024, ACC takes MEM[ACC] and PC advances; from
1024 on, OutOfBounds is raised with ACC, MEM and PC unchanged. -/
def Obligations.StepLoadMemory : Prop :=
  ∀ (s : State) (b1 b2 b3 b4 : Byte) (rest : List Byte), s.runState = .running →
    s.stream.drop s.pc = 0x58#8 :: b1 :: b2 :: b3 :: b4 :: rest →
    ∃ t, step s = .next t ∧ t.eraseLatches =
      if s.acc.toNat < 1024 then
        { s.eraseLatches with acc := Memory.read s.mem s.acc.toNat, pc := s.pc + 5 }
      else
        { s.eraseLatches with
          runState := .fault, cause := .outOfBounds, faultPc := s.pc, faultInfo := s.acc }

/-- R82: a STORE_MEMORY record in the stream at PC. Below 1024, the operand's cell takes ACC and every other cell is as it
was, read cell by cell; from 1024 on, OutOfBounds is raised and no cell is written. Every field but MEM is given outright. -/
def Obligations.StepStoreMemory : Prop :=
  ∀ (s : State) (b1 b2 b3 b4 : Byte) (rest : List Byte), s.runState = .running →
    s.stream.drop s.pc = 0x39#8 :: b1 :: b2 :: b3 :: b4 :: rest →
    let operand : Word := ((b4 ++ b3) ++ b2) ++ b1
    ∃ t, step s = .next t ∧
      if operand.toNat < 1024 then
        { t.eraseLatches with mem := s.mem } = { s.eraseLatches with pc := s.pc + 5 } ∧
        (Memory.wf s.mem = true →
          ∀ c, Memory.read t.mem c = if c = operand.toNat then s.acc else Memory.read s.mem c)
      else
        t.eraseLatches = { s.eraseLatches with
          runState := .fault, cause := .outOfBounds, faultPc := s.pc, faultInfo := operand }

/-- R85: a NOT record in the stream at PC, whatever its operand. ACC takes ACC XOR (2^32 - 1), PC advances, nothing else
changes; there is no condition and no fault. -/
def Obligations.StepNot : Prop :=
  ∀ (s : State) (b1 b2 b3 b4 : Byte) (rest : List Byte), s.runState = .running →
    s.stream.drop s.pc = 0x89#8 :: b1 :: b2 :: b3 :: b4 :: rest →
    ∃ t, step s = .next t ∧
      t.eraseLatches = { s.eraseLatches with acc := s.acc ^^^ BitVec.ofNat 32 (2 ^ 32 - 1), pc := s.pc + 5 }

/-! ## The meanings: completion, frame, traps -/

/-- LOAD_CONST completes from every state with every operand, and this is its frame: ACC and PC change, nothing else. -/
def Obligations.ExecLoadConstCompletes : Prop :=
  ∀ (x : Operand) (s : State), exec (.loadConst x) s = .next { s with acc := x, pc := s.pc + 5 }

/-- LOAD_MEMORY completes when ACC is the index of a cell, and this is its frame: ACC, PC, MAR and MDR change,
nothing else; all of memory is as it was. What
MAR and MDR keep is the model's reading of R25 and R26 (log entry 3). -/
def Obligations.ExecLoadMemoryCompletes : Prop :=
  ∀ (x : Operand) (s : State), s.acc.toNat < 1024 →
    exec (.loadMemory x) s = .next { s with
      acc := Memory.read s.mem s.acc.toNat
      pc := s.pc + 5
      mar := s.acc
      mdr := Memory.read s.mem s.acc.toNat }

/-- STORE_MEMORY completes when its address is that of a cell, and this is its frame: MEM, PC, MAR and MDR change, nothing
else; the cell at the meaning's own address takes ACC, and every other cell reads as before. What MAR and MDR
keep is the model's reading of R25 and R26 (log entry 3). -/
def Obligations.ExecStoreMemoryCompletes : Prop :=
  ∀ (x : Operand) (s : State), (absoluteAddress x).toNat < 1024 → Memory.wf s.mem = true →
    ∃ t, exec (.storeMemory x) s = .next t ∧
      { t with mem := s.mem } = { s with pc := s.pc + 5, mar := absoluteAddress x, mdr := s.acc } ∧
      Memory.wf t.mem = true ∧
      Memory.read t.mem (absoluteAddress x).toNat = s.acc ∧
      ∀ c, c ≠ (absoluteAddress x).toNat → Memory.read t.mem c = Memory.read s.mem c

/-- NOT completes from every state with every operand, and this is its frame: ACC and PC change, nothing else. -/
def Obligations.ExecNotCompletes : Prop :=
  ∀ (x : Operand) (s : State), exec (.notAcc x) s = .next { s with acc := ~~~s.acc, pc := s.pc + 5 }

/-- R93: the two cases of OutOfBounds, with CAUSE, FAULT_INFO and FAULT_PC; MEM, ACC and PC do not change. -/
def Obligations.OutOfBoundsIsRaised : Prop :=
  ∀ (x : Operand) (s : State),
    (1024 ≤ s.acc.toNat →
      ∃ t, exec (.loadMemory x) s = .next t ∧ t.eraseLatches = { s.eraseLatches with
        runState := .fault, cause := .outOfBounds, faultPc := s.pc, faultInfo := s.acc }) ∧
    (1024 ≤ x.toNat →
      ∃ t, exec (.storeMemory x) s = .next t ∧ t.eraseLatches = { s.eraseLatches with
        runState := .fault, cause := .outOfBounds, faultPc := s.pc, faultInfo := x })

/-- LOAD_MEMORY and NOT ignore their operand: every value decodes, and none changes what the record does. -/
def Obligations.OperandIgnoredByLoadMemoryAndNot : Prop :=
  ∀ (x y : Operand) (s : State),
    decode (encodeRecord .loadMemory x) = .ok (.loadMemory x) ∧
    decode (encodeRecord .notAcc x) = .ok (.notAcc x) ∧
    exec (.loadMemory x) s = exec (.loadMemory y) s ∧ exec (.notAcc x) s = exec (.notAcc y) s

/-- Two NOTs in a row give back the original accumulator, and the first one alone never does. -/
def Obligations.NotTwiceRestoresAcc : Prop :=
  ∀ (x y : Operand) (s : State), ∃ t u,
    exec (.notAcc x) s = .next t ∧ t.acc ≠ s.acc ∧ exec (.notAcc y) t = .next u ∧ u.acc = s.acc ∧ u.mem = s.mem ∧
      u.pc = s.pc + 10

/-- No gap is needed between a store and a load of the same cell, nor between the load of a pointer and its use:
STORE_MEMORY x, LOAD_CONST x, LOAD_MEMORY gives back the stored accumulator. -/
def Obligations.LoadAfterStoreNeedsNoGap : Prop :=
  ∀ (x y : Operand) (s : State), x.toNat < 1024 → Memory.wf s.mem = true →
    ∃ t u v, exec (.storeMemory x) s = .next t ∧ exec (.loadConst x) t = .next u ∧ u.acc = x ∧
      exec (.loadMemory y) u = .next v ∧ v.acc = s.acc ∧ v.runState = s.runState

/-! ## The step -/

/-- A step runs the decoded instruction: when the bytes at PC decode to an instruction, the step is its meaning at the state
whose IR holds the record. -/
def Obligations.StepRunsDecoded : Prop :=
  ∀ (s : State) (i : Instr), s.runState = .running → decode (s.stream.drop s.pc) = .ok i →
    step s = exec i { s with ir := packRecord ((s.stream.drop s.pc).take 5) }

/-- The model's reading of R24 (log entry 3): a step at a complete record leaves in IR the five bytes at PC, whatever the
record then does; a step that fetches nothing leaves IR alone. -/
def Obligations.FetchLatchesRecord : Prop :=
  ∀ s t : State, step s = .next t →
    (s.pc + 5 ≤ s.stream.length → ∀ k, k < 5 → s.stream[s.pc + k]? = some (t.ir.extractLsb' (8 * k) 8)) ∧
    (s.stream.length < s.pc + 5 → t.ir = s.ir)

/-- The model's reading of R25 and R26 (log entry 3): LOAD_MEMORY and STORE_MEMORY leave their address in MAR, on a fault too,
and the datum of a completed access in MDR; no other step touches these latches. -/
def Obligations.MarMdrFollowTheAccess : Prop :=
  ∀ s t : State, step s = .next t →
    match decode (s.stream.drop s.pc) with
    | .ok (.loadMemory _) =>
      t.mar = s.acc ∧ t.mdr = if s.acc.toNat < 1024 then Memory.read s.mem s.acc.toNat else s.mdr
    | .ok (.storeMemory x) => t.mar = x ∧ t.mdr = if x.toNat < 1024 then s.acc else s.mdr
    | .ok (.loadConst _) => t.mar = s.mar ∧ t.mdr = s.mdr
    | .ok (.notAcc _) => t.mar = s.mar ∧ t.mdr = s.mdr
    | .truncated _ => t.mar = s.mar ∧ t.mdr = s.mdr
    | .unknownOpcode _ => t.mar = s.mar ∧ t.mdr = s.mdr

/-- The host's placing of a word (log entry 16): a table word that decodes, placed in any state, is what the very next step
runs, and neither ACC, MEM nor PC is touched to place it. -/
def Obligations.FetchWordRunsNext : Prop :=
  ∀ (s : State) (nbits w : Nat) (i : Instr), decodeTableWord nbits w = some i →
    let placed := s.withFetchWord nbits w
    step placed = exec i { placed with ir := packRecord (tableWordBytes nbits w) } ∧
    placed.acc = s.acc ∧ placed.mem = s.mem ∧ placed.pc = s.pc

/-- R66: at the end of the stream the step sets STATE to DONE and changes nothing else. -/
def Obligations.StepTerminates : Prop :=
  ∀ s : State, s.runState = .running → s.stream.length ≤ s.pc → step s = .next { s with runState := .done }

/-- R91: a tail of 1 to 4 bytes raises TruncatedStream with the number of bytes left and the address of the tail, whatever the
bytes are: none of them is decoded and nothing executes. The whole architectural next state is given; the transient latches
are set aside (`FetchLatchesRecord` says what the model leaves in IR). -/
def Obligations.StepTruncated : Prop :=
  ∀ s : State, s.runState = .running → s.pc < s.stream.length → s.stream.length - s.pc < 5 →
    ∃ (info : Word) (t : State), info.toNat = s.stream.length - s.pc ∧ step s = .next t ∧
      t.eraseLatches = { s.eraseLatches with
        runState := .fault, cause := .truncatedStream, faultPc := s.pc, faultInfo := info }

/-- R67: the boundary check at the record that crosses the end, and its consequence: a stream whose length is not a multiple
of 5 ends in TruncatedStream at its tail, unless an earlier complete record raises UnknownOpcode or OutOfBounds first. -/
def Obligations.BoundaryValidation : Prop :=
  (∀ s : State, s.runState = .running → s.pc < s.stream.length → s.stream.length - s.pc < 5 →
    ∃ t, step s = .next t ∧ t.runState = .fault ∧ t.cause = .truncatedStream ∧
      t.faultInfo.toNat = s.stream.length - s.pc ∧ 1 ≤ t.faultInfo.toNat ∧ t.faultInfo.toNat ≤ 4 ∧
      t.acc = s.acc ∧ t.mem = s.mem ∧ t.pc = s.pc) ∧
  (∀ stream : List Byte, stream.length % 5 ≠ 0 →
    ∃ n t, stepN n (boot stream) = some t ∧ t.runState = .fault ∧
      (t.cause = .truncatedStream ∧ t.faultPc = 5 * (stream.length / 5) ∨
        (t.cause = .unknownOpcode ∨ t.cause = .outOfBounds) ∧ t.faultPc + 5 ≤ stream.length))

/-- R50 and R92: there are 252 illegal opcode bytes, and a complete record with one of them raises UnknownOpcode with that
byte, whatever its operand and with no data address looked at. -/
def Obligations.IllegalOpcodeRaises : Prop :=
  ((List.range 256).filter fun n => illegal (BitVec.ofNat 8 n)).length = 252 ∧
  ∀ (s : State) (b b1 b2 b3 b4 : Byte) (rest : List Byte), s.runState = .running →
    s.stream.drop s.pc = b :: b1 :: b2 :: b3 :: b4 :: rest →
    b ≠ 0x39 ∧ b ≠ 0x3E ∧ b ≠ 0x58 ∧ b ≠ 0x89 →
    ∃ t, step s = .next t ∧ t.eraseLatches = { s.eraseLatches with
      runState := .fault, cause := .unknownOpcode, faultPc := s.pc, faultInfo := b.setWidth 32 }

/-- R65: a step is enabled exactly in RUNNING; reset leaves DONE and FAULT. -/
def Obligations.StepEnabledOnlyInRunning : Prop :=
  ∀ s : State, ((∃ t, step s = .next t) ↔ s.runState = .running) ∧ s.hostReset.runState = .running

/-- The model's names for having no step (log entry 7, DEDUCED): in DONE the step answers the fault runOver, in FAULT the
fault halted, each in that STATE alone; no step is ever refused. -/
def Obligations.StuckStepsAreNamed : Prop :=
  ∀ s : State,
    (step s = .fault .runOver ↔ s.runState = .done) ∧ (step s = .fault .halted ↔ s.runState = .fault) ∧
    ∀ r, step s ≠ .refused r

/-- R96: the checks of a step in their order, the first that applies decides; the outcome of every check from every RUNNING
state. -/
def Obligations.FaultPriority : Prop :=
  ∀ s : State, s.runState = .running → ∃ t, step s = .next t ∧
    if s.stream.length ≤ s.pc then t.runState = .done ∧ t.cause = s.cause
    else if s.stream.length - s.pc < 5 then t.runState = .fault ∧ t.cause = .truncatedStream
    else
      match decode (s.stream.drop s.pc) with
      | .unknownOpcode _ => t.runState = .fault ∧ t.cause = .unknownOpcode
      | .ok (.loadMemory _) =>
        if 1024 ≤ s.acc.toNat then t.runState = .fault ∧ t.cause = .outOfBounds
        else t.runState = .running ∧ t.cause = s.cause
      | .ok (.storeMemory x) =>
        if 1024 ≤ x.toNat then t.runState = .fault ∧ t.cause = .outOfBounds
        else t.runState = .running ∧ t.cause = s.cause
      | .ok (.loadConst _) => t.runState = .running ∧ t.cause = s.cause
      | .ok (.notAcc _) => t.runState = .running ∧ t.cause = s.cause
      | .truncated _ => False

/-- R97: `raise F(info)` writes exactly the four fault fields; and a step that ends in FAULT has done just that to the
architectural state it began with: ACC, MEM, PC and the stream are as before, FAULT_PC is the faulting record's address. -/
def Obligations.FaultEntryWritesOnlyFaultFields : Prop :=
  (∀ (s : State) (f : RunFault) (info : Word),
    s.raise f info = { s with
      runState := .fault
      cause := match f with
        | .truncatedStream => .truncatedStream
        | .unknownOpcode => .unknownOpcode
        | .outOfBounds => .outOfBounds
      faultPc := s.pc
      faultInfo := info }) ∧
  ∀ s t : State, step s = .next t → t.runState = .fault →
    ∃ (f : RunFault) (info : Word), t.eraseLatches = (s.raise f info).eraseLatches

/-- R90: exactly three run faults, each with its code, its cause and its FAULT_INFO. -/
def Obligations.ExactlyThreeRunFaults : Prop :=
  (Cause.none.code = 0 ∧ Cause.truncatedStream.code = 1 ∧ Cause.unknownOpcode.code = 2 ∧ Cause.outOfBounds.code = 3) ∧
  ∀ s t : State, step s = .next t → t.runState = .fault →
    (t.cause = .truncatedStream ∧ s.pc < s.stream.length ∧ s.stream.length < s.pc + 5 ∧
      t.faultInfo.toNat = s.stream.length - s.pc) ∨
    (t.cause = .unknownOpcode ∧
      ∃ b, decode (s.stream.drop s.pc) = .unknownOpcode b ∧ t.faultInfo.toNat = b.toNat) ∨
    (t.cause = .outOfBounds ∧ 1024 ≤ t.faultInfo.toNat ∧
      ((∃ x, decode (s.stream.drop s.pc) = .ok (.loadMemory x) ∧ t.faultInfo = s.acc) ∨
        ∃ x, decode (s.stream.drop s.pc) = .ok (.storeMemory x) ∧ t.faultInfo = x))

/-- R16: what PC does. A step that completes its record adds 5; a faulting step and the terminating step leave it; reset sets
it to 0. -/
def Obligations.PcChangesOnlyByAdvanceAndReset : Prop :=
  (∀ s t : State, step s = .next t →
    (t.runState = .running → t.pc = s.pc + 5) ∧ (t.runState = .fault → t.pc = s.pc) ∧
      (t.runState = .done → t.pc = s.pc ∧ s.stream.length ≤ s.pc)) ∧
  ∀ s : State, s.hostReset.pc = 0

/-- Only LOAD_CONST, LOAD_MEMORY and NOT write ACC; every other step leaves it. -/
def Obligations.AccWrittenOnlyByItsThreeInstructions : Prop :=
  ∀ s t : State, step s = .next t →
    match decode (s.stream.drop s.pc) with
    | .ok (.loadConst x) => t.acc = x
    | .ok (.loadMemory _) => t.acc = if s.acc.toNat < 1024 then Memory.read s.mem s.acc.toNat else s.acc
    | .ok (.storeMemory _) => t.acc = s.acc
    | .ok (.notAcc _) => t.acc = ~~~s.acc
    | .truncated _ => t.acc = s.acc
    | .unknownOpcode _ => t.acc = s.acc

/-- Only STORE_MEMORY writes MEM, and only its one cell; every other step leaves the whole memory. -/
def Obligations.MemWrittenOnlyByStoreMemory : Prop :=
  ∀ s t : State, step s = .next t → Memory.wf s.mem = true →
    match s.storeMade with
    | none => t.mem = s.mem
    | some (a, v) => a < 1024 ∧ v = s.acc ∧ ∀ c, Memory.read t.mem c = if c = a then v else Memory.read s.mem c

/-- R21, with the frame of the other fault fields: FAULT_PC is written by fault entry alone, with the PC that the step keeps;
outside fault entry a step leaves CAUSE, FAULT_PC and FAULT_INFO. -/
def Obligations.FaultFieldsWrittenOnlyByFaultEntry : Prop :=
  (∀ s t : State, step s = .next t →
    t.faultPc = (if t.runState = .fault then s.pc else s.faultPc) ∧
      (t.runState = .fault → t.faultPc = t.pc) ∧
      (t.runState ≠ .fault → t.cause = s.cause ∧ t.faultInfo = s.faultInfo)) ∧
  (∀ s : State, s.hostReset.faultPc = 0)

/-- A fetch never sees a data store: no number of steps changes the stream, and what is fetched does not depend on MEM or
ACC. -/
def Obligations.FetchNeverSeesAStore : Prop :=
  (∀ (n : Nat) (s t : State), stepN n s = some t → t.stream = s.stream) ∧
  ∀ (s : State) (m : Memory) (v : Word), { s with mem := m, acc := v }.fetch = s.fetch

/-! ## Invariants and whole runs -/

/-- The invariant holds right after reset: in State.reset, after a boot with any stream, after a reset in any state. -/
def Obligations.ResetHasInv : Prop :=
  State.reset.Inv ∧ (∀ stream : List Byte, (boot stream).Inv) ∧ ∀ s : State, s.hostReset.Inv

/-- Every step keeps the invariant, from every state that has it: memory stays canonical, PC stays a multiple of 5 within the
stream, DONE is only at the end, and the fault fields say what is at PC in FAULT and hold their reset values elsewhere. -/
def Obligations.StepKeepsInv : Prop :=
  ∀ s t : State, s.Inv → step s = .next t → t.Inv

/-- Every run ends. From every RUNNING state, a step either stops the run or moves PC 5 bytes on within the stream; the run
reaches DONE or FAULT within floor((L - PC) / 5) + 1 steps; and a stream of n complete records takes exactly n + 1 steps to
DONE if no record faults. -/
def Obligations.EveryRunEnds : Prop :=
  (∀ s t : State, step s = .next t → t.runState = .running →
    t.pc = s.pc + 5 ∧ t.pc ≤ t.stream.length ∧ t.stream.length = s.stream.length) ∧
  (∀ s : State, s.runState = .running →
    ∃ n t, n ≤ (s.stream.length - s.pc) / 5 + 1 ∧ stepN n s = some t ∧ t.runState ≠ .running) ∧
  (∀ (n : Nat) (stream : List Byte), stream.length = 5 * n →
    (∀ k t, stepN k (boot stream) = some t → t.runState ≠ .fault) →
    (∀ k, k ≤ n → ∃ t, stepN k (boot stream) = some t ∧ t.runState = .running ∧ t.pc = 5 * k) ∧
      ∃ t, stepN (n + 1) (boot stream) = some t ∧ t.runState = .done ∧ t.pc = stream.length)

/-- Faults are precise over a whole run: the step that enters FAULT is the one at the record FAULT_PC names, every record
before it has completed, ACC and MEM are as those records left them, and no later step exists. -/
def Obligations.FaultsArePrecise : Prop :=
  ∀ (stream : List Byte) (n : Nat) (t : State), stepN n (boot stream) = some t → t.runState = .fault →
    ∃ m u, n = m + 1 ∧ stepN m (boot stream) = some u ∧ u.runState = .running ∧ t.faultPc = 5 * m ∧ t.pc = 5 * m ∧
      t.acc = u.acc ∧ t.mem = u.mem ∧ stepN (n + 1) (boot stream) = none ∧
      ∀ k, k ≤ m → ∃ v, stepN k (boot stream) = some v ∧ v.runState = .running ∧ v.pc = 5 * k

/-- Precision at every step, from every state with the invariant. A step that stays RUNNING has run its complete record to
the end: it is the meaning of the decoded instruction, PC is 5 bytes on, and the fault fields hold their reset values. A step
that ends in FAULT has done fault entry to the architectural state and nothing else, FAULT_PC is the address of that record, a
multiple of 5 below L, and no step follows. A step that ends in DONE stands at the end of the stream. -/
def Obligations.EachStepCompletesOrFaultsPrecisely : Prop :=
  ∀ s t : State, s.Inv → step s = .next t →
    match t.runState with
    | .running =>
      (∃ i, decode (s.stream.drop s.pc) = .ok i ∧
        exec i { s with ir := packRecord ((s.stream.drop s.pc).take 5) } = .next t) ∧
      t.pc = s.pc + 5 ∧ t.pc ≤ s.stream.length ∧ t.cause = .none ∧ t.faultPc = 0 ∧ t.faultInfo = 0
    | .fault =>
      (∃ (f : RunFault) (info : Word), t.eraseLatches = (s.raise f info).eraseLatches) ∧
      t.faultPc = s.pc ∧ t.faultPc % 5 = 0 ∧ t.faultPc < s.stream.length ∧ ∀ u, step t ≠ .next u
    | .done =>
      t.eraseLatches = { s.eraseLatches with runState := .done } ∧ t.pc = s.stream.length ∧ ∀ u, step t ≠ .next u

/-- The latches hold no state: two states that differ in IR, MAR and MDR alone run alike for any number of steps, one being
stuck when the other is. -/
def Obligations.LatchesCarryNothing : Prop :=
  ∀ (n : Nat) (s t : State), s.eraseLatches = t.eraseLatches →
    (stepN n s).map State.eraseLatches = (stepN n t).map State.eraseLatches

/-- R38: over any run, a cell holds the value of the last STORE_MEMORY to it, or what it held at the start; after a boot that
is 0. -/
def Obligations.CellHoldsLastStore : Prop :=
  (∀ (n : Nat) (s t : State), Memory.wf s.mem = true → stepN n s = some t →
    ∀ a, Memory.read t.mem a = (lastStoreTo a (storesMade n s)).getD (Memory.read s.mem a)) ∧
  ∀ (n : Nat) (stream : List Byte) (t : State), stepN n (boot stream) = some t →
    ∀ a, Memory.read t.mem a = (lastStoreTo a (storesMade n (boot stream))).getD 0

/-- PC never wraps: on a build with k bits of PC that accepts the launch, no state of the run has a PC of 2^k or more. -/
def Obligations.PcNeverWraps : Prop :=
  ∀ (k : Nat) (stream : List Byte) (s t : State) (n : Nat),
    launch k stream = .next s → stepN n s = some t → t.pc < 2 ^ k

/-- A stream that an encoded program makes never raises TruncatedStream or UnknownOpcode, in any number of steps: a fault of
its run is an OutOfBounds. -/
def Obligations.EncodedProgramsAreNeverMalformed : Prop :=
  ∀ (program : List Instr) (n : Nat) (t : State), stepN n (boot (encodeProgram program)) = some t →
    t.cause = .none ∨ t.cause = .outOfBounds

/-- The same as an invariant of the step: over the stream of an encoded program, every step from a state with the invariant
and with CAUSE NONE or OUT_OF_BOUNDS gives such a state again, the stream unchanged. -/
def Obligations.EncodedStreamKeepsCauseInv : Prop :=
  ∀ (program : List Instr) (s t : State), s.Inv → s.stream = encodeProgram program →
    (s.cause = .none ∨ s.cause = .outOfBounds) → step s = .next t →
    t.Inv ∧ t.stream = encodeProgram program ∧ (t.cause = .none ∨ t.cause = .outOfBounds)

/-- The canonical form is canonical: two memories in it whose existing cells read alike are one list. -/
def Obligations.CanonicalMemoriesAreEqual : Prop :=
  ∀ m m' : Memory, Memory.wf m = true → Memory.wf m' = true →
    (∀ a, a < 1024 → Memory.read m a = Memory.read m' a) → m = m'

/-! ## Reset, launch and the host's ports -/

/-- R110 and R111: reset in any state gives these values, leaves the stream alone, and lets nothing else of the architectural
state survive; after it the state is that of State.reset with the stream. The latches, which R110 leaves unspecified, are set
aside. -/
def Obligations.ResetValues : Prop :=
  (∀ s : State,
    s.hostReset.acc = 0 ∧ (∀ a, a < 1024 → Memory.read s.hostReset.mem a = 0) ∧ s.hostReset.pc = 0 ∧
      s.hostReset.runState = .running ∧ s.hostReset.cause = .none ∧ s.hostReset.faultPc = 0 ∧
      s.hostReset.faultInfo = 0 ∧ s.hostReset.stream = s.stream) ∧
  (∀ s t : State, s.stream = t.stream → s.hostReset.eraseLatches = t.hostReset.eraseLatches) ∧
  State.reset.hostReset.eraseLatches = State.reset.eraseLatches

/-- R8: a stream longer than 2^PC_BITS - 1 is refused at launch; any other launch gives the reset state with that stream. -/
def Obligations.LaunchRefusesLongStreams : Prop :=
  ∀ (k : Nat) (stream : List Byte),
    (stream.length ≤ 2 ^ k - 1 → launch k stream = .next (boot stream) ∧ (boot stream).stream = stream) ∧
    (2 ^ k - 1 < stream.length → launch k stream = .refused .streamTooLong)

/-- R43 and R44: the result port. In DONE, a slice within memory gives its cells, lowest first, any other range OutOfBounds;
in RUNNING and FAULT the read is refused; the default range is the whole memory. -/
def Obligations.ResultReadGivesTheSlice : Prop :=
  ∀ (s : State) (start stop : Nat),
    (s.runState = .done → start ≤ stop ∧ stop ≤ 1024 →
      ∃ cells, s.resultRead start stop = .cells cells ∧ cells.length = stop - start ∧
        ∀ k, k < stop - start → cells[k]? = some (Memory.read s.mem (start + k))) ∧
    (s.runState = .done → ¬(start ≤ stop ∧ stop ≤ 1024) → s.resultRead start stop = .outOfBounds) ∧
    (¬s.validResult → s.resultRead start stop = .refused) ∧
    s.resultRead = s.resultRead 0 1024

/-- The debug read and the debug outputs, in any STATE. -/
def Obligations.DebugPortsShowTheState : Prop :=
  ∀ (s : State) (a : Nat),
    (a < 1024 → s.debugMem a = some (Memory.read s.mem a)) ∧
    s.debugOutputs.acc = s.acc ∧ s.debugOutputs.pc = s.pc ∧ s.debugOutputs.faultPc = s.faultPc ∧
    s.debugOutputs.faultInfo = s.faultInfo ∧ s.debugOutputs.status = s.status

/-- The STATUS word: STATE in bits [1:0], CAUSE in bits [3:2], both with the spec's numbers, bits [7:4] zero, never STATE 3,
0 at reset; and no instruction reads it. -/
def Obligations.StatusWordLayout : Prop :=
  (∀ s : State,
    s.status.toNat = (match s.runState with | .running => 0 | .done => 1 | .fault => 2) +
      4 * (match s.cause with | .none => 0 | .truncatedStream => 1 | .unknownOpcode => 2 | .outOfBounds => 3) ∧
    s.status.extractLsb' 4 4 = 0#4 ∧ s.status.extractLsb' 0 2 ≠ 3#2) ∧
  State.reset.status = 0 ∧
  ∀ (i : Instr) (s t : State) (r : RunState) (c : Cause), exec i s = .next t →
    ∃ u, exec i { s with runState := r, cause := c } = .next u ∧ u.acc = t.acc ∧ u.mem = t.mem ∧ u.pc = t.pc

/-! ## The assembler's contract -/

/-- A symbolic record with one of the four names becomes that instruction; an absent operand is 0 (R54); an operand of 2^32
or more is reduced to its low 32 bits and a negative one is refused (R56). The name of that refusal, negativeOperand, is the
model's own (log entry 15, DESIGN CHOICE). -/
def Obligations.AssemblerTakesOperandsModulo : Prop :=
  ∀ (name : String) (op : Opcode),
    (name, op) ∈ [("LOAD_CONST", Opcode.loadConst), ("LOAD_MEMORY", Opcode.loadMemory),
      ("STORE_MEMORY", Opcode.storeMemory), ("NOT", Opcode.notAcc)] →
    assembleRecord { command := name, operand := none } = .ok (op.instr 0) ∧
    (∀ x : Int, 0 ≤ x →
      ∃ v : Operand, (v.toNat : Int) = x % 2 ^ 32 ∧
        assembleRecord { command := name, operand := some x } = .ok (op.instr v)) ∧
    ∀ x : Int, x < 0 → assembleRecord { command := name, operand := some x } = .error (.negativeOperand x)

/-- The assembler accepts exactly the programs whose every record is well-formed, and its stream is that of their
instructions; an UnknownCommand names a command of the program that is not one of the four. -/
def Obligations.AssemblerAcceptsExactlyWellFormed : Prop :=
  ∀ program : List SymRecord,
    ((∃ stream, assemble program = .ok stream) ↔ ∀ r ∈ program, r.wf = true) ∧
    (∀ stream, assemble program = .ok stream →
      ∃ instrs : List Instr, instrs.length = program.length ∧ stream = encodeProgram instrs ∧
        ∀ (k : Nat) (r : SymRecord), program[k]? = some r →
          ∃ i, instrs[k]? = some i ∧ assembleRecord r = .ok i) ∧
    ∀ c, assemble program = .error (.unknownCommand c) →
      c ∉ ["LOAD_CONST", "LOAD_MEMORY", "STORE_MEMORY", "NOT"] ∧ ∃ r ∈ program, r.command = c

/-- R58: the stream of a program is the concatenation of its records: its length is five times their number and instruction k
occupies bytes 5k to 5k + 4. -/
def Obligations.ProgramRecordsStandInOrder : Prop :=
  ∀ program : List Instr,
    (encodeProgram program).length = 5 * program.length ∧
    ∀ k i, program[k]? = some i → ((encodeProgram program).drop (5 * k)).take 5 = encode i
end

