-- ==== Sys2Proof/Laws/Memory.lean ====
section
/-! SUPPORT. The laws of data memory: the canonical form is kept, and a write sets one cell. -/

namespace Sys2Proof.Machine

theorem Memory.wfFrom_cons {low a : Nat} {v : Word} {rest : Memory} :
    Memory.wfFrom low ((a, v) :: rest) = true ↔
      low ≤ a ∧ a < Config.memSize ∧ v ≠ 0#32 ∧ Memory.wfFrom (a + 1) rest = true := by
  simp [Memory.wfFrom, and_assoc]

theorem Memory.wfFrom_anti {m : Memory} {low low' : Nat} (h : Memory.wfFrom low m = true) (hl : low' ≤ low) :
    Memory.wfFrom low' m = true := by
  cases m with
  | nil => rfl
  | cons p rest =>
    obtain ⟨h1, h2⟩ := Memory.wfFrom_cons.1 h
    exact Memory.wfFrom_cons.2 ⟨hl.trans h1, h2⟩

/-- A cell below every listed one holds 0. -/
theorem Memory.read_eq_zero_of_lt {m : Memory} {low a : Nat} (h : Memory.wfFrom low m = true) (ha : a < low) :
    Memory.read m a = 0#32 := by
  induction m generalizing low with
  | nil => rfl
  | cons p rest ih =>
    obtain ⟨h1, -, -, h4⟩ := Memory.wfFrom_cons.1 h
    simp [Memory.read, show a ≠ p.1 by omega, ih h4 (by omega)]

/-- A cell that does not exist is never listed. -/
theorem Memory.read_eq_zero_of_memSize_le {m : Memory} {low a : Nat} (h : Memory.wfFrom low m = true)
    (ha : Config.memSize ≤ a) : Memory.read m a = 0#32 := by
  induction m generalizing low with
  | nil => rfl
  | cons p rest ih =>
    obtain ⟨-, h2, -, h4⟩ := Memory.wfFrom_cons.1 h
    simp [Memory.read, show a ≠ p.1 by omega, ih h4]

/-- Writing an existing cell keeps the canonical form. -/
theorem Memory.wfFrom_write {m : Memory} {low a : Nat} (v : Word) (h : Memory.wfFrom low m = true) (hl : low ≤ a)
    (ha : a < Config.memSize) : Memory.wfFrom low (Memory.write m a v) = true := by
  induction m generalizing low with
  | nil =>
    by_cases hv : v = 0#32
    · simp [Memory.write, hv, Memory.wfFrom]
    · simpa [Memory.write, hv, Memory.wfFrom_cons, Memory.wfFrom] using ⟨hl, ha⟩
  | cons p rest ih =>
    obtain ⟨b, w⟩ := p
    obtain ⟨h1, h2, h3, h4⟩ := Memory.wfFrom_cons.1 h
    by_cases hlt : a < b
    · by_cases hv : v = 0#32
      · simpa [Memory.write, hlt, hv] using h
      · simp only [Memory.write, hlt, hv, if_true, if_false]
        exact Memory.wfFrom_cons.2 ⟨hl, ha, hv, Memory.wfFrom_cons.2 ⟨hlt, h2, h3, h4⟩⟩
    · by_cases hab : a = b
      · subst hab
        by_cases hv : v = 0#32
        · simpa [Memory.write, hv] using Memory.wfFrom_anti h4 (by omega)
        · simpa [Memory.write, hv] using Memory.wfFrom_cons.2 ⟨h1, h2, hv, h4⟩
      · simp only [Memory.write, hlt, hab, if_false]
        exact Memory.wfFrom_cons.2 ⟨h1, h2, h3, ih h4 (by omega)⟩

/-- The basic law (R33): the written cell holds the value, every other cell is as it was. -/
theorem Memory.read_write {m : Memory} {low : Nat} (a : Nat) (v : Word) (c : Nat) (h : Memory.wfFrom low m = true) :
    Memory.read (Memory.write m a v) c = if c = a then v else Memory.read m c := by
  induction m generalizing low with
  | nil =>
    by_cases hv : v = 0#32
    · simp [Memory.write, Memory.read, hv]
    · simp [Memory.write, Memory.read, hv]
  | cons p rest ih =>
    obtain ⟨b, w⟩ := p
    obtain ⟨-, -, -, h4⟩ := Memory.wfFrom_cons.1 h
    by_cases hlt : a < b
    · by_cases hv : v = 0#32
      · by_cases hc : c = a
        · subst hc
          simp [Memory.write, hlt, hv, Memory.read, show c ≠ b by omega,
            Memory.read_eq_zero_of_lt h4 (show c < b + 1 by omega)]
        · simp [Memory.write, hlt, hv, hc]
      · simp [Memory.write, hlt, hv, Memory.read]
    · by_cases hab : a = b
      · subst hab
        by_cases hc : c = a
        · subst hc
          by_cases hv : v = 0#32
          · simp [Memory.write, hv, Memory.read_eq_zero_of_lt h4 (show c < c + 1 by omega)]
          · simp [Memory.write, hv, Memory.read]
        · by_cases hv : v = 0#32 <;> simp [Memory.write, hv, Memory.read, hc]
      · by_cases hcb : c = b
        · subst hcb
          simp [Memory.write, hlt, hab, Memory.read, show c ≠ a by omega]
        · simp [Memory.write, hlt, hab, Memory.read, hcb, ih h4]

/-- The canonical form over the whole memory: the write of R33 keeps it. -/
theorem State.memWrite_wf {s : State} {a : Word} (v : Word) (h : Memory.wf s.mem = true) (ha : a.toNat < Config.memSize) :
    Memory.wf (s.memWrite a v).mem = true :=
  Memory.wfFrom_write v h (Nat.zero_le _) ha

/-- What MemWrite does (R33), read cell by cell. -/
theorem State.memWrite_read {s : State} (a v : Word) (c : Nat) (h : Memory.wf s.mem = true) :
    Memory.read (s.memWrite a v).mem c = if c = a.toNat then v else Memory.read s.mem c :=
  Memory.read_write a.toNat v c h

/-- Reset leaves a canonical memory. -/
theorem State.reset_mem_wf : Memory.wf State.reset.mem = true := rfl

end Sys2Proof.Machine
end

