-- ==== Sys2Proof/Laws/State.lean ====
section
/-! SUPPORT. One lemma per field per update of State, so that no proof unfolds a record update. -/

namespace Sys2Proof.Machine

variable (s : State)

/-! ## `State.setAcc` -/

@[simp] theorem State.setAcc_acc (v : Word) : (s.setAcc v).acc = v := rfl
@[simp] theorem State.setAcc_mem (v : Word) : (s.setAcc v).mem = s.mem := rfl
@[simp] theorem State.setAcc_pc (v : Word) : (s.setAcc v).pc = s.pc := rfl
@[simp] theorem State.setAcc_runState (v : Word) : (s.setAcc v).runState = s.runState := rfl
@[simp] theorem State.setAcc_cause (v : Word) : (s.setAcc v).cause = s.cause := rfl
@[simp] theorem State.setAcc_faultPc (v : Word) : (s.setAcc v).faultPc = s.faultPc := rfl
@[simp] theorem State.setAcc_faultInfo (v : Word) : (s.setAcc v).faultInfo = s.faultInfo := rfl
@[simp] theorem State.setAcc_ir (v : Word) : (s.setAcc v).ir = s.ir := rfl
@[simp] theorem State.setAcc_mar (v : Word) : (s.setAcc v).mar = s.mar := rfl
@[simp] theorem State.setAcc_mdr (v : Word) : (s.setAcc v).mdr = s.mdr := rfl
@[simp] theorem State.setAcc_stream (v : Word) : (s.setAcc v).stream = s.stream := rfl

/-! ## `State.setIr` -/

@[simp] theorem State.setIr_acc (r : Record) : (s.setIr r).acc = s.acc := rfl
@[simp] theorem State.setIr_mem (r : Record) : (s.setIr r).mem = s.mem := rfl
@[simp] theorem State.setIr_pc (r : Record) : (s.setIr r).pc = s.pc := rfl
@[simp] theorem State.setIr_runState (r : Record) : (s.setIr r).runState = s.runState := rfl
@[simp] theorem State.setIr_cause (r : Record) : (s.setIr r).cause = s.cause := rfl
@[simp] theorem State.setIr_faultPc (r : Record) : (s.setIr r).faultPc = s.faultPc := rfl
@[simp] theorem State.setIr_faultInfo (r : Record) : (s.setIr r).faultInfo = s.faultInfo := rfl
@[simp] theorem State.setIr_ir (r : Record) : (s.setIr r).ir = r := rfl
@[simp] theorem State.setIr_mar (r : Record) : (s.setIr r).mar = s.mar := rfl
@[simp] theorem State.setIr_mdr (r : Record) : (s.setIr r).mdr = s.mdr := rfl
@[simp] theorem State.setIr_stream (r : Record) : (s.setIr r).stream = s.stream := rfl

/-! ## `State.setMar` -/

@[simp] theorem State.setMar_acc (a : Word) : (s.setMar a).acc = s.acc := rfl
@[simp] theorem State.setMar_mem (a : Word) : (s.setMar a).mem = s.mem := rfl
@[simp] theorem State.setMar_pc (a : Word) : (s.setMar a).pc = s.pc := rfl
@[simp] theorem State.setMar_runState (a : Word) : (s.setMar a).runState = s.runState := rfl
@[simp] theorem State.setMar_cause (a : Word) : (s.setMar a).cause = s.cause := rfl
@[simp] theorem State.setMar_faultPc (a : Word) : (s.setMar a).faultPc = s.faultPc := rfl
@[simp] theorem State.setMar_faultInfo (a : Word) : (s.setMar a).faultInfo = s.faultInfo := rfl
@[simp] theorem State.setMar_ir (a : Word) : (s.setMar a).ir = s.ir := rfl
@[simp] theorem State.setMar_mar (a : Word) : (s.setMar a).mar = a := rfl
@[simp] theorem State.setMar_mdr (a : Word) : (s.setMar a).mdr = s.mdr := rfl
@[simp] theorem State.setMar_stream (a : Word) : (s.setMar a).stream = s.stream := rfl

/-! ## `State.setMdr` -/

@[simp] theorem State.setMdr_acc (v : Word) : (s.setMdr v).acc = s.acc := rfl
@[simp] theorem State.setMdr_mem (v : Word) : (s.setMdr v).mem = s.mem := rfl
@[simp] theorem State.setMdr_pc (v : Word) : (s.setMdr v).pc = s.pc := rfl
@[simp] theorem State.setMdr_runState (v : Word) : (s.setMdr v).runState = s.runState := rfl
@[simp] theorem State.setMdr_cause (v : Word) : (s.setMdr v).cause = s.cause := rfl
@[simp] theorem State.setMdr_faultPc (v : Word) : (s.setMdr v).faultPc = s.faultPc := rfl
@[simp] theorem State.setMdr_faultInfo (v : Word) : (s.setMdr v).faultInfo = s.faultInfo := rfl
@[simp] theorem State.setMdr_ir (v : Word) : (s.setMdr v).ir = s.ir := rfl
@[simp] theorem State.setMdr_mar (v : Word) : (s.setMdr v).mar = s.mar := rfl
@[simp] theorem State.setMdr_mdr (v : Word) : (s.setMdr v).mdr = v := rfl
@[simp] theorem State.setMdr_stream (v : Word) : (s.setMdr v).stream = s.stream := rfl

/-! ## `State.memWrite` -/

@[simp] theorem State.memWrite_acc (a v : Word) : (s.memWrite a v).acc = s.acc := rfl
@[simp] theorem State.memWrite_mem (a v : Word) : (s.memWrite a v).mem = Memory.write s.mem a.toNat v := rfl
@[simp] theorem State.memWrite_pc (a v : Word) : (s.memWrite a v).pc = s.pc := rfl
@[simp] theorem State.memWrite_runState (a v : Word) : (s.memWrite a v).runState = s.runState := rfl
@[simp] theorem State.memWrite_cause (a v : Word) : (s.memWrite a v).cause = s.cause := rfl
@[simp] theorem State.memWrite_faultPc (a v : Word) : (s.memWrite a v).faultPc = s.faultPc := rfl
@[simp] theorem State.memWrite_faultInfo (a v : Word) : (s.memWrite a v).faultInfo = s.faultInfo := rfl
@[simp] theorem State.memWrite_ir (a v : Word) : (s.memWrite a v).ir = s.ir := rfl
@[simp] theorem State.memWrite_mar (a v : Word) : (s.memWrite a v).mar = s.mar := rfl
@[simp] theorem State.memWrite_mdr (a v : Word) : (s.memWrite a v).mdr = s.mdr := rfl
@[simp] theorem State.memWrite_stream (a v : Word) : (s.memWrite a v).stream = s.stream := rfl

/-! ## `State.advance` -/

@[simp] theorem State.advance_acc : s.advance.acc = s.acc := rfl
@[simp] theorem State.advance_mem : s.advance.mem = s.mem := rfl
@[simp] theorem State.advance_pc : s.advance.pc = s.pc + Config.recordLen := rfl
@[simp] theorem State.advance_runState : s.advance.runState = s.runState := rfl
@[simp] theorem State.advance_cause : s.advance.cause = s.cause := rfl
@[simp] theorem State.advance_faultPc : s.advance.faultPc = s.faultPc := rfl
@[simp] theorem State.advance_faultInfo : s.advance.faultInfo = s.faultInfo := rfl
@[simp] theorem State.advance_ir : s.advance.ir = s.ir := rfl
@[simp] theorem State.advance_mar : s.advance.mar = s.mar := rfl
@[simp] theorem State.advance_mdr : s.advance.mdr = s.mdr := rfl
@[simp] theorem State.advance_stream : s.advance.stream = s.stream := rfl

/-! ## `State.finish` -/

@[simp] theorem State.finish_acc : s.finish.acc = s.acc := rfl
@[simp] theorem State.finish_mem : s.finish.mem = s.mem := rfl
@[simp] theorem State.finish_pc : s.finish.pc = s.pc := rfl
@[simp] theorem State.finish_runState : s.finish.runState = .done := rfl
@[simp] theorem State.finish_cause : s.finish.cause = s.cause := rfl
@[simp] theorem State.finish_faultPc : s.finish.faultPc = s.faultPc := rfl
@[simp] theorem State.finish_faultInfo : s.finish.faultInfo = s.faultInfo := rfl
@[simp] theorem State.finish_ir : s.finish.ir = s.ir := rfl
@[simp] theorem State.finish_mar : s.finish.mar = s.mar := rfl
@[simp] theorem State.finish_mdr : s.finish.mdr = s.mdr := rfl
@[simp] theorem State.finish_stream : s.finish.stream = s.stream := rfl

/-! ## `State.raise` -/

@[simp] theorem State.raise_acc (f : RunFault) (info : Word) : (s.raise f info).acc = s.acc := rfl
@[simp] theorem State.raise_mem (f : RunFault) (info : Word) : (s.raise f info).mem = s.mem := rfl
@[simp] theorem State.raise_pc (f : RunFault) (info : Word) : (s.raise f info).pc = s.pc := rfl
@[simp] theorem State.raise_runState (f : RunFault) (info : Word) : (s.raise f info).runState = .fault := rfl
@[simp] theorem State.raise_cause (f : RunFault) (info : Word) : (s.raise f info).cause = f.cause := rfl
@[simp] theorem State.raise_faultPc (f : RunFault) (info : Word) : (s.raise f info).faultPc = s.pc := rfl
@[simp] theorem State.raise_faultInfo (f : RunFault) (info : Word) : (s.raise f info).faultInfo = info := rfl
@[simp] theorem State.raise_ir (f : RunFault) (info : Word) : (s.raise f info).ir = s.ir := rfl
@[simp] theorem State.raise_mar (f : RunFault) (info : Word) : (s.raise f info).mar = s.mar := rfl
@[simp] theorem State.raise_mdr (f : RunFault) (info : Word) : (s.raise f info).mdr = s.mdr := rfl
@[simp] theorem State.raise_stream (f : RunFault) (info : Word) : (s.raise f info).stream = s.stream := rfl

/-! ## `State.supplyStream` -/

@[simp] theorem State.supplyStream_acc (stream : List Byte) : (s.supplyStream stream).acc = s.acc := rfl
@[simp] theorem State.supplyStream_mem (stream : List Byte) : (s.supplyStream stream).mem = s.mem := rfl
@[simp] theorem State.supplyStream_pc (stream : List Byte) : (s.supplyStream stream).pc = s.pc := rfl
@[simp] theorem State.supplyStream_runState (stream : List Byte) : (s.supplyStream stream).runState = s.runState := rfl
@[simp] theorem State.supplyStream_cause (stream : List Byte) : (s.supplyStream stream).cause = s.cause := rfl
@[simp] theorem State.supplyStream_faultPc (stream : List Byte) : (s.supplyStream stream).faultPc = s.faultPc := rfl
@[simp] theorem State.supplyStream_faultInfo (stream : List Byte) : (s.supplyStream stream).faultInfo = s.faultInfo := rfl
@[simp] theorem State.supplyStream_ir (stream : List Byte) : (s.supplyStream stream).ir = s.ir := rfl
@[simp] theorem State.supplyStream_mar (stream : List Byte) : (s.supplyStream stream).mar = s.mar := rfl
@[simp] theorem State.supplyStream_mdr (stream : List Byte) : (s.supplyStream stream).mdr = s.mdr := rfl
@[simp] theorem State.supplyStream_stream (stream : List Byte) : (s.supplyStream stream).stream = stream := rfl

/-! ## `State.loadCell` -/

@[simp] theorem State.loadCell_acc : s.loadCell.acc = s.memRead s.mar := rfl
@[simp] theorem State.loadCell_mem : s.loadCell.mem = s.mem := rfl
@[simp] theorem State.loadCell_pc : s.loadCell.pc = s.pc := rfl
@[simp] theorem State.loadCell_runState : s.loadCell.runState = s.runState := rfl
@[simp] theorem State.loadCell_cause : s.loadCell.cause = s.cause := rfl
@[simp] theorem State.loadCell_faultPc : s.loadCell.faultPc = s.faultPc := rfl
@[simp] theorem State.loadCell_faultInfo : s.loadCell.faultInfo = s.faultInfo := rfl
@[simp] theorem State.loadCell_ir : s.loadCell.ir = s.ir := rfl
@[simp] theorem State.loadCell_mar : s.loadCell.mar = s.mar := rfl
@[simp] theorem State.loadCell_mdr : s.loadCell.mdr = s.memRead s.mar := rfl
@[simp] theorem State.loadCell_stream : s.loadCell.stream = s.stream := rfl

/-! ## `State.storeCell` -/

@[simp] theorem State.storeCell_acc : s.storeCell.acc = s.acc := rfl
@[simp] theorem State.storeCell_mem : s.storeCell.mem = Memory.write s.mem s.mar.toNat s.acc := rfl
@[simp] theorem State.storeCell_pc : s.storeCell.pc = s.pc := rfl
@[simp] theorem State.storeCell_runState : s.storeCell.runState = s.runState := rfl
@[simp] theorem State.storeCell_cause : s.storeCell.cause = s.cause := rfl
@[simp] theorem State.storeCell_faultPc : s.storeCell.faultPc = s.faultPc := rfl
@[simp] theorem State.storeCell_faultInfo : s.storeCell.faultInfo = s.faultInfo := rfl
@[simp] theorem State.storeCell_ir : s.storeCell.ir = s.ir := rfl
@[simp] theorem State.storeCell_mar : s.storeCell.mar = s.mar := rfl
@[simp] theorem State.storeCell_mdr : s.storeCell.mdr = s.acc := rfl
@[simp] theorem State.storeCell_stream : s.storeCell.stream = s.stream := rfl

/-! ## Reset (R110, R111) -/

@[simp] theorem State.reset_acc : State.reset.acc = 0 := rfl
@[simp] theorem State.reset_mem : State.reset.mem = [] := rfl
@[simp] theorem State.reset_pc : State.reset.pc = 0 := rfl
@[simp] theorem State.reset_runState : State.reset.runState = .running := rfl
@[simp] theorem State.reset_cause : State.reset.cause = .none := rfl
@[simp] theorem State.reset_faultPc : State.reset.faultPc = 0 := rfl
@[simp] theorem State.reset_faultInfo : State.reset.faultInfo = 0 := rfl
@[simp] theorem State.reset_ir : State.reset.ir = 0 := rfl
@[simp] theorem State.reset_mar : State.reset.mar = 0 := rfl
@[simp] theorem State.reset_mdr : State.reset.mdr = 0 := rfl
@[simp] theorem State.reset_stream : State.reset.stream = [] := rfl

@[simp] theorem State.hostReset_acc : s.hostReset.acc = 0 := rfl
@[simp] theorem State.hostReset_mem : s.hostReset.mem = [] := rfl
@[simp] theorem State.hostReset_pc : s.hostReset.pc = 0 := rfl
@[simp] theorem State.hostReset_runState : s.hostReset.runState = .running := rfl
@[simp] theorem State.hostReset_cause : s.hostReset.cause = .none := rfl
@[simp] theorem State.hostReset_faultPc : s.hostReset.faultPc = 0 := rfl
@[simp] theorem State.hostReset_faultInfo : s.hostReset.faultInfo = 0 := rfl
@[simp] theorem State.hostReset_ir : s.hostReset.ir = 0 := rfl
@[simp] theorem State.hostReset_mar : s.hostReset.mar = 0 := rfl
@[simp] theorem State.hostReset_mdr : s.hostReset.mdr = 0 := rfl
@[simp] theorem State.hostReset_stream : s.hostReset.stream = s.stream := rfl

@[simp] theorem boot_acc (stream : List Byte) : (boot stream).acc = 0 := rfl
@[simp] theorem boot_mem (stream : List Byte) : (boot stream).mem = [] := rfl
@[simp] theorem boot_pc (stream : List Byte) : (boot stream).pc = 0 := rfl
@[simp] theorem boot_runState (stream : List Byte) : (boot stream).runState = .running := rfl
@[simp] theorem boot_cause (stream : List Byte) : (boot stream).cause = .none := rfl
@[simp] theorem boot_faultPc (stream : List Byte) : (boot stream).faultPc = 0 := rfl
@[simp] theorem boot_faultInfo (stream : List Byte) : (boot stream).faultInfo = 0 := rfl
@[simp] theorem boot_ir (stream : List Byte) : (boot stream).ir = 0 := rfl
@[simp] theorem boot_mar (stream : List Byte) : (boot stream).mar = 0 := rfl
@[simp] theorem boot_mdr (stream : List Byte) : (boot stream).mdr = 0 := rfl
@[simp] theorem boot_stream (stream : List Byte) : (boot stream).stream = stream := rfl

end Sys2Proof.Machine
end

