-- ==== Sys2Proof/Laws/Ops.lean ====
section
/-! SUPPORT. One lemma per shared operation that says once what it can do, and the inversion of `step`. -/

namespace Sys2Proof

@[simp] theorem Instr.wf_eq_true (i : Instr) : i.wf = true := by
  have h := i.operand.isLt
  simp [Instr.wf, operandInRange, Config.operandWidth, h]

@[simp] theorem Opcode.instr_opcode (op : Opcode) (x : Operand) : (op.instr x).opcode = op := by cases op <;> rfl

@[simp] theorem Opcode.instr_operand (op : Opcode) (x : Operand) : (op.instr x).operand = x := by cases op <;> rfl

@[simp] theorem Instr.opcode_instr_operand (i : Instr) : i.opcode.instr i.operand = i := by cases i <;> rfl

end Sys2Proof

namespace Sys2Proof.Machine

variable {s : State}

/-- The address check (R31). -/
theorem validAddress_iff (a : Word) : validAddress a = true ↔ a.toNat < 1024 := by simp [validAddress]

/-- A valid address: the access happens and PC advances. -/
theorem State.checkedAccess_of_valid {access : State → State} (h : s.mar.toNat < 1024) :
    s.checkedAccess access = .next (access s).advance :=
  if_pos ((validAddress_iff _).2 h)

/-- An invalid address: OutOfBounds, and the access does not happen. -/
theorem State.checkedAccess_of_invalid {access : State → State} (h : 1024 ≤ s.mar.toNat) :
    s.checkedAccess access = .next (s.raise .outOfBounds s.mar) :=
  if_neg fun hv => absurd ((validAddress_iff _).1 hv) (by omega)

/-- Everything the checked access can do. -/
theorem State.checkedAccess_cases {access : State → State} {t : State} (h : s.checkedAccess access = .next t) :
    (s.mar.toNat < 1024 ∧ t = (access s).advance) ∨ (1024 ≤ s.mar.toNat ∧ t = s.raise .outOfBounds s.mar) := by
  by_cases hv : s.mar.toNat < 1024
  · rw [State.checkedAccess_of_valid hv, Host.Outcome.next.injEq] at h
    exact .inl ⟨hv, h.symm⟩
  · rw [State.checkedAccess_of_invalid (by omega), Host.Outcome.next.injEq] at h
    exact .inr ⟨by omega, h.symm⟩

/-- At W = 32 the zero extension of an operand is the operand (R47). -/
@[simp] theorem zextW_operand (x : Operand) : zextW x = x := by simp [zextW]

/-- StreamRead answers exactly when the bytes exist. -/
theorem State.streamRead_eq_some {a n : Nat} {bytes : List Byte} :
    s.streamRead a n = some bytes ↔ a + n ≤ s.streamLen ∧ bytes = (s.stream.drop a).take n := by
  unfold State.streamRead
  split <;> simp_all [eq_comm]

theorem State.streamRead_eq_none {a n : Nat} : s.streamRead a n = none ↔ s.streamLen < a + n := by
  unfold State.streamRead
  split <;> simp_all

/-- What the stream parser can find at PC (R66 to R68). -/
theorem State.fetch_cases :
    (s.fetch = .endOfStream ∧ s.streamLen ≤ s.pc) ∨
    (s.fetch = .truncated (s.streamLen - s.pc) ∧ s.pc < s.streamLen ∧ s.streamLen < s.pc + 5) ∨
    (s.fetch = .record (packRecord ((s.stream.drop s.pc).take 5)) ∧ s.pc + 5 ≤ s.streamLen) := by
  by_cases h : s.streamLen ≤ s.pc
  · exact .inl ⟨by simp [State.fetch, h], h⟩
  · by_cases h5 : s.pc + 5 ≤ s.streamLen
    · exact .inr (.inr ⟨by simp [State.fetch, h, State.streamRead, h5], h5⟩)
    · exact .inr (.inl ⟨by simp [State.fetch, h, State.streamRead, h5], by omega, by omega⟩)

/-- Everything a step that answers a next state can have done (R65 to R73). -/
theorem step_cases {t : State} (h : step s = .next t) :
    s.runState = .running ∧
      ((s.streamLen ≤ s.pc ∧ t = s.finish) ∨
        (s.pc < s.streamLen ∧ s.streamLen < s.pc + 5 ∧ t = s.raiseTruncated (s.streamLen - s.pc)) ∨
        (s.pc + 5 ≤ s.streamLen ∧ ∃ r, r = packRecord ((s.stream.drop s.pc).take 5) ∧
          ((∃ i, decodeRecord r = some i ∧ exec i (s.setIr r) = .next t) ∨
            (decodeRecord r = none ∧ t = (s.setIr r).raiseUnknown (opcodeField r))))) := by
  unfold step at h
  cases hs : s.runState with
  | done => simp [hs] at h
  | fault => simp [hs] at h
  | running =>
    refine ⟨rfl, ?_⟩
    rcases s.fetch_cases with ⟨hf, hl⟩ | ⟨hf, h1, h2⟩ | ⟨hf, h5⟩
    · simp only [hs, hf, Host.Outcome.next.injEq] at h
      exact .inl ⟨hl, h.symm⟩
    · simp only [hs, hf, Host.Outcome.next.injEq] at h
      exact .inr (.inl ⟨h1, h2, h.symm⟩)
    · refine .inr (.inr ⟨h5, _, rfl, ?_⟩)
      simp only [hs, hf, State.setIr_ir] at h
      cases hd : decodeRecord (packRecord ((s.stream.drop s.pc).take 5)) with
      | some i => exact .inl ⟨i, rfl, by simpa [hd] using h⟩
      | none =>
        simp only [hd, Host.Outcome.next.injEq] at h
        exact .inr ⟨rfl, h.symm⟩

end Sys2Proof.Machine
end

