-- ==== Sys2Proof/Laws/PerInstr.lean ====
section
/-! SUPPORT. Statements made instruction by instruction. -/

/-- Every record is exactly RECORD_LEN = 5 bytes (R45, R52, R53). -/
def Sys2Proof.Laws.EncodeLength.Statement (i : Sys2Proof.Instr) : Prop :=
  (Sys2Proof.encode i).length = Sys2Proof.Config.recordLen

theorem Sys2Proof.Laws.EncodeLength.loadConst (operand : Sys2Proof.Operand) :
    Sys2Proof.Laws.EncodeLength.Statement (.loadConst operand) := rfl

theorem Sys2Proof.Laws.EncodeLength.loadMemory (operand : Sys2Proof.Operand) :
    Sys2Proof.Laws.EncodeLength.Statement (.loadMemory operand) := rfl

theorem Sys2Proof.Laws.EncodeLength.storeMemory (operand : Sys2Proof.Operand) :
    Sys2Proof.Laws.EncodeLength.Statement (.storeMemory operand) := rfl

theorem Sys2Proof.Laws.EncodeLength.notAcc (operand : Sys2Proof.Operand) :
    Sys2Proof.Laws.EncodeLength.Statement (.notAcc operand) := rfl
end

