-- ==== Sys2Proof/Tests/Slice0.lean ====
section
/-! SUPPORT. The model's own tests: words written out from the spec's encodings, the well-formedness smoke test, one step at a
time from the vectors of spec/95_test_vectors.md, and for every statement with hypotheses a witness that meets them
(test_wit_<the statement's name>). Expected values come from the spec. -/

namespace Sys2Proof.Tests

open Sys2Proof Sys2Proof.Machine

/-- A RUNNING state at PC = 0 with this ACC, this memory and this stream. -/
def st (acc : Word) (mem : Memory) (stream : List Byte) : State := { boot stream with acc := acc, mem := mem }

/-- The next state of a step, if it answers one. -/
def after (o : Host.Outcome State Fault Refusal) : Option State :=
  match o with
  | .next t => some t
  | .fault _ => none
  | .refused _ => none

/-! ## Decoding: words written out from 30_encoding.md -/

-- L1-1, L1-2, L1-3, L1-4
theorem test_decode_load_const : decode [0x3E, 0x26, 0x00, 0x00, 0x00] = .ok (.loadConst 38) := by decide
theorem test_decode_load_memory : decode [0x58, 0x00, 0x00, 0x00, 0x00] = .ok (.loadMemory 0) := by decide
theorem test_decode_store_memory : decode [0x39, 0x70, 0x00, 0x00, 0x00] = .ok (.storeMemory 112) := by decide
theorem test_decode_not : decode [0x89, 0xB1, 0x02, 0x00, 0x00] = .ok (.notAcc 689) := by decide
-- V2-1: the order of the operand bytes
theorem test_decode_byte_order : decode [0x3E, 0x78, 0x56, 0x34, 0x12] = .ok (.loadConst 0x12345678) := by decide
-- V2-10: a legal opcode value in the operand bytes does not matter
theorem test_decode_illegal : decode [0x00, 0x3E, 0x00, 0x00, 0x00] = .unknownOpcode 0 := by decide
-- V1-3: too short comes before illegal
theorem test_decode_short : decode [0x00, 0x00, 0x00, 0x00] = .truncated 4 := by decide
-- L1-4, encoded
theorem test_encode_not : encode (.notAcc 689) = [0x89, 0xB1, 0x02, 0x00, 0x00] := by decide
-- the record 39 FF 03 00 00 (V2-3) as the table's 40-bit word
theorem test_table_word : decodeTableWord 40 0x3FF39 = some (.storeMemory 1023) := by decide

/-! ## Well-formedness: each check refuses an ill-formed term -/

theorem test_wf_operand_too_wide : operandInRange 0x100000000 = false := by decide
theorem test_wf_operand_last : operandInRange 0xFFFFFFFF = true := by decide
theorem test_wf_instr : (Instr.notAcc 0xFFFFFFFF).wf = true := by decide
theorem test_wf_unknown_command : SymRecord.wf { command := "JUMP", operand := none } = false := by decide
theorem test_wf_negative_operand : SymRecord.wf { command := "NOT", operand := some (-1) } = false := by decide
theorem test_wf_sym_record : SymRecord.wf { command := "NOT", operand := some 100 } = true := by decide
theorem test_wf_stream_too_long : streamFits 2 [0, 0, 0, 0] = false := by decide
theorem test_wf_stream_fits : streamFits 2 [0, 0, 0] = true := by decide

/-! ## One step at a time (95_test_vectors.md section 2) -/

-- V3-3: no bounds check on a constant
theorem test_load_const :
    (after (step (st 0xFFFFFFFF [] [0x3E, 0x00, 0x04, 0x00, 0x00]))).map (fun t => (t.acc, t.pc)) =
      some (0x400, 5) := by decide
-- V4-6: the operand is ignored, cell 0 is read
theorem test_load_memory :
    (after (step (st 0 [(0, 8), (5, 9)] [0x58, 0x05, 0x00, 0x00, 0x00]))).map (fun t => (t.acc, t.pc)) =
      some (8, 5) := by decide
-- V4-4: not read as -1 or taken modulo 1024
theorem test_load_memory_out_of_bounds :
    (after (step (st 0xFFFFFFFF [] [0x58, 0x00, 0x00, 0x00, 0x00]))).map
        (fun t => (t.status, t.faultInfo, t.acc, t.pc)) =
      some (0x0E, 0xFFFFFFFF, 0xFFFFFFFF, 0) := by decide
-- V5-2: the last cell
theorem test_store_memory :
    (after (step (st 0xFFFFFFFF [(3, 7)] [0x39, 0xFF, 0x03, 0x00, 0x00]))).map (fun t => (t.mem, t.pc)) =
      some ([(3, 7), (1023, 0xFFFFFFFF)], 5) := by decide
-- V5-3, L1-7
theorem test_store_memory_out_of_bounds :
    (after (step (st 5 [] [0x39, 0x00, 0x04, 0x00, 0x00]))).map
        (fun t => (t.status, t.faultInfo, t.mem, t.pc)) =
      some (0x0E, 0x400, [], 0) := by decide
-- V6-5
theorem test_not :
    (after (step (st 0x2B1 [] [0x89, 0xB1, 0x02, 0x00, 0x00]))).map (fun t => (t.acc, t.pc)) =
      some (0xFFFFFD4E, 5) := by decide
-- V1-1: the empty stream
theorem test_empty_stream : (after (step State.reset)).map State.status = some 0x01 := by decide
-- V1-3: a short tail with an illegal first byte
theorem test_truncated :
    (after (step (st 0 [] [0x00, 0x00, 0x00, 0x00]))).map (fun t => (t.status, t.faultInfo)) =
      some (0x06, 4) := by decide
-- V2-9
theorem test_unknown_opcode :
    (after (step (st 0 [] [0xFF, 0xFF, 0xFF, 0xFF, 0xFF]))).map (fun t => (t.status, t.faultInfo)) =
      some (0x0A, 0xFF) := by decide
-- V8-1, V8-6, V8-7
theorem test_result_read :
    ({ st 0 [(100, 0xFFFFFFFE), (101, 0xFFFFFFFD)] [] with runState := .done } : State).resultRead 100 102 =
      .cells [0xFFFFFFFE, 0xFFFFFFFD] := by decide
theorem test_result_read_backwards :
    ({ st 0 [] [] with runState := .done } : State).resultRead 5 3 = .outOfBounds := by decide
theorem test_result_read_in_fault :
    ({ st 0 [] [] with runState := .fault } : State).resultRead 0 1 = .refused := by decide
-- the host's fetch word: NOT 689 as the first instruction after reset
theorem test_fetch_word :
    (after (step (State.reset.withFetchWord 40 0x2B189))).map (fun t => (t.acc, t.ir, t.pc)) =
      some (0xFFFFFFFF, 0x2B189, 5) := by decide
-- the same word with its operand bytes left to zero
theorem test_fetch_word_short :
    (after (step (State.reset.withFetchWord 8 0x89))).map (fun t => (t.acc, t.ir, t.pc)) =
      some (0xFFFFFFFF, 0x89, 5) := by decide
-- writing 0 removes the entry
theorem test_write_zero : Memory.write [(3, 7), (9, 1)] 3 0 = [(9, 1)] := by decide
-- R56: 2^32 + 5 keeps its low 32 bits
theorem test_assemble :
    assemble [{ command := "LOAD_CONST", operand := some 0x100000005 }, { command := "NOT", operand := none }] =
      .ok [0x3E, 5, 0, 0, 0, 0x89, 0, 0, 0, 0] := by decide

/-! ## Witnesses: the hypotheses of each statement, met together; each clause at a boundary of its range -/

/-- A state of the tests: a memory with a listed cell, the latches not at their reset values. -/
def busy (acc : Word) (stream : List Byte) : State :=
  { st acc [(0, 4), (1023, 6)] stream with ir := 1, mar := 2, mdr := 3 }

theorem test_wit_EncodeDecode :
    [0x58, 1, 2, 3, 4].length = 5 ∧ decode [0x58, 1, 2, 3, 4] = .ok (.loadMemory 0x04030201) := by decide

theorem test_wit_StepLoadConst :
    (busy 9 [0x3E, 1, 2, 3, 4, 5]).runState = .running ∧
      (busy 9 [0x3E, 1, 2, 3, 4, 5]).stream.drop 0 = [0x3E, 1, 2, 3, 4, 5] := by decide

theorem test_wit_StepLoadMemory_last_cell :
    (busy 1023 [0x58, 0, 0, 0, 0]).runState = .running ∧ (busy 1023 [0x58, 0, 0, 0, 0]).acc.toNat < 1024 ∧
      (after (step (busy 1023 [0x58, 0, 0, 0, 0]))).map State.acc = some 6 := by decide

theorem test_wit_StepLoadMemory_first_invalid :
    (busy 1024 [0x58, 0, 0, 0, 0]).runState = .running ∧ ¬(busy 1024 [0x58, 0, 0, 0, 0]).acc.toNat < 1024 ∧
      (after (step (busy 1024 [0x58, 0, 0, 0, 0]))).map State.runState = some .fault := by decide

theorem test_wit_StepStoreMemory_last_cell :
    (busy 9 [0x39, 0xFF, 3, 0, 0]).runState = .running ∧ Memory.wf (busy 9 [0x39, 0xFF, 3, 0, 0]).mem = true ∧
      (after (step (busy 9 [0x39, 0xFF, 3, 0, 0]))).map State.mem = some [(0, 4), (1023, 9)] := by decide

theorem test_wit_StepStoreMemory_first_invalid :
    (busy 9 [0x39, 0, 4, 0, 0]).runState = .running ∧
      (after (step (busy 9 [0x39, 0, 4, 0, 0]))).map State.runState = some .fault := by decide

theorem test_wit_StepNot :
    (busy 9 [0x89, 1, 2, 3, 4]).runState = .running ∧
      (after (step (busy 9 [0x89, 1, 2, 3, 4]))).map State.acc = some 0xFFFFFFF6 := by decide

theorem test_wit_ExecLoadMemoryCompletes :
    (busy 0 []).acc.toNat < 1024 ∧ (busy 1023 []).acc.toNat < 1024 := by decide

theorem test_wit_ExecStoreMemoryCompletes :
    (absoluteAddress 1023).toNat < 1024 ∧ (absoluteAddress 0).toNat < 1024 ∧ Memory.wf (busy 9 []).mem = true := by
  decide

theorem test_wit_OutOfBoundsIsRaised :
    1024 ≤ (busy 1024 []).acc.toNat ∧ 1024 ≤ (0x400 : Operand).toNat ∧ 1024 ≤ (0xFFFFFFFF : Operand).toNat := by decide

theorem test_wit_LoadAfterStoreNeedsNoGap :
    (1023 : Operand).toNat < 1024 ∧ Memory.wf (busy 9 []).mem = true := by decide

theorem test_wit_StepRunsDecoded :
    (busy 9 [0x89, 1, 2, 3, 4]).runState = .running ∧
      decode ((busy 9 [0x89, 1, 2, 3, 4]).stream.drop (busy 9 []).pc) = .ok (.notAcc 0x04030201) := by decide

theorem test_wit_FetchLatchesRecord :
    (after (step (busy 9 [0, 1, 2, 3, 4]))).map State.ir = some 0x0403020100 ∧
      (busy 9 [0, 1, 2, 3, 4]).pc + 5 ≤ [0, 1, 2, 3, 4].length ∧
      (after (step (busy 9 [0, 1, 2, 3]))).map State.ir = some 1 ∧
      [0, 1, 2, 3].length < (busy 9 [0, 1, 2, 3]).pc + 5 := by decide

theorem test_wit_MarMdrFollowTheAccess :
    (after (step (busy 1024 [0x58, 0, 0, 0, 0]))).map (fun t => (t.mar, t.mdr)) = some (1024, 3) ∧
      (after (step (busy 9 [0x39, 0xFF, 3, 0, 0]))).map (fun t => (t.mar, t.mdr)) = some (1023, 9) := by decide

theorem test_wit_FetchWordRunsNext :
    decodeTableWord 40 0x0403020189 = some (.notAcc 0x04030201) ∧ decodeTableWord 8 0x58 = some (.loadMemory 0) := by
  decide

theorem test_wit_StepTerminates :
    (busy 9 []).runState = .running ∧ (busy 9 []).stream.length ≤ (busy 9 []).pc := by decide

theorem test_wit_StepTruncated :
    (busy 9 [0x3E]).runState = .running ∧ (busy 9 [0x3E]).pc < [0x3E].length ∧
      [0x3E].length - (busy 9 [0x3E]).pc < 5 ∧
      (busy 9 [0x3E, 0, 0, 0]).pc < [0x3E, 0, 0, 0].length ∧ [0x3E, 0, 0, 0].length - (busy 9 []).pc < 5 := by decide

theorem test_wit_BoundaryValidation :
    [0x3E].length % 5 ≠ 0 ∧ [0x3E, 1, 2, 3].length % 5 ≠ 0 ∧ [0x39, 0, 4, 0, 0, 7].length % 5 ≠ 0 := by decide

theorem test_wit_IllegalOpcodeRaises :
    (busy 9 [0x3F, 0, 0, 0, 0]).runState = .running ∧
      ((0x3F : Byte) ≠ 0x39 ∧ (0x3F : Byte) ≠ 0x3E ∧ (0x3F : Byte) ≠ 0x58 ∧ (0x3F : Byte) ≠ 0x89) := by decide

theorem test_wit_StepEnabledOnlyInRunning : ∃ t, step (busy 9 [0x3E]) = .next t := ⟨_, rfl⟩

theorem test_wit_StuckStepsAreNamed :
    step { busy 9 [] with runState := .done } = .fault .runOver ∧
      step { busy 9 [] with runState := .fault } = .fault .halted := ⟨rfl, rfl⟩

theorem test_wit_FaultPriority :
    (after (step (busy 9 []))).map State.runState = some .done ∧
      (after (step (busy 9 [0, 0, 0, 0]))).map State.cause = some .truncatedStream ∧
      (after (step (busy 9 [0, 0, 0, 0, 0]))).map State.cause = some .unknownOpcode ∧
      (after (step (busy 1024 [0x58, 0, 0, 0, 0]))).map State.cause = some .outOfBounds ∧
      (after (step (busy 1023 [0x58, 0, 0, 0, 0]))).map State.cause = some .none ∧
      (after (step (busy 9 [0x39, 0, 4, 0, 0]))).map State.cause = some .outOfBounds ∧
      (after (step (busy 9 [0x39, 0xFF, 3, 0, 0]))).map State.cause = some .none ∧
      (after (step (busy 9 [0x3E, 0, 4, 0, 0]))).map State.cause = some .none ∧
      (after (step (busy 1024 [0x89, 0, 4, 0, 0]))).map State.cause = some .none := by decide

theorem test_wit_FaultEntryWritesOnlyFaultFields :
    ∃ t, step (busy 1024 [0x58, 0, 0, 0, 0]) = .next t ∧ t.runState = .fault := ⟨_, rfl, rfl⟩

theorem test_wit_ExactlyThreeRunFaults :
    (∃ t, step (busy 9 [0, 0, 0]) = .next t ∧ t.runState = .fault) ∧
      (∃ t, step (busy 9 [0, 0, 0, 0, 0]) = .next t ∧ t.runState = .fault) ∧
      ∃ t, step (busy 9 [0x39, 0, 4, 0, 0]) = .next t ∧ t.runState = .fault :=
  ⟨⟨_, rfl, rfl⟩, ⟨_, rfl, rfl⟩, ⟨_, rfl, rfl⟩⟩

theorem test_wit_PcChangesOnlyByAdvanceAndReset :
    (∃ t, step (busy 9 [0x89, 0, 0, 0, 0]) = .next t ∧ t.runState = .running) ∧
      (∃ t, step (busy 9 [0x89]) = .next t ∧ t.runState = .fault) ∧
      ∃ t, step (busy 9 []) = .next t ∧ t.runState = .done :=
  ⟨⟨_, rfl, rfl⟩, ⟨_, rfl, rfl⟩, ⟨_, rfl, rfl⟩⟩

theorem test_wit_AccWrittenOnlyByItsThreeInstructions :
    (after (step (busy 9 [0x3E, 1, 0, 0, 0]))).map State.acc = some 1 ∧
      (after (step (busy 1024 [0x58, 0, 0, 0, 0]))).map State.acc = some 1024 ∧
      (after (step (busy 9 [0x39, 1, 0, 0, 0]))).map State.acc = some 9 ∧
      (after (step (busy 9 [0, 1, 0, 0, 0]))).map State.acc = some 9 ∧
      (after (step (busy 9 [0x3E]))).map State.acc = some 9 := by decide

theorem test_wit_MemWrittenOnlyByStoreMemory :
    Memory.wf (busy 9 []).mem = true ∧ (busy 9 [0x39, 0xFF, 3, 0, 0]).storeMade = some (1023, 9) ∧
      (busy 9 [0x39, 0, 4, 0, 0]).storeMade = none ∧
      (after (step (busy 9 [0x39, 0, 4, 0, 0]))).map State.mem = some (busy 9 []).mem := by decide

theorem test_wit_FaultFieldsWrittenOnlyByFaultEntry :
    (∃ t, step (busy 9 [0x3E]) = .next t ∧ t.runState = .fault) ∧
      ∃ t, step (busy 9 [0x3E, 0, 0, 0, 0]) = .next t ∧ t.runState ≠ .fault :=
  ⟨⟨_, rfl, rfl⟩, ⟨_, rfl, by decide⟩⟩

theorem test_wit_FetchNeverSeesAStore :
    (stepN 2 (busy 9 [0x39, 0, 0, 0, 0, 0x89])).isSome = true := by decide

/-- The invariant of a running state that a store has been made in. -/
theorem test_wit_StepKeepsInv :
    (busy 9 [0x39, 0xFF, 3, 0, 0]).Inv ∧ ∃ t, step (busy 9 [0x39, 0xFF, 3, 0, 0]) = .next t :=
  ⟨⟨by decide, by decide, by decide, by decide, fun _ => ⟨rfl, rfl, rfl⟩,
      fun h => absurd h (by decide)⟩, ⟨_, rfl⟩⟩

/-- Each outcome from a state with the invariant: a fault at the last cell plus one, the end of the stream. -/
theorem test_wit_EachStepCompletesOrFaultsPrecisely :
    (busy 9 [0x39, 0, 4, 0, 0]).Inv ∧
      (∃ t, step (busy 9 [0x39, 0, 4, 0, 0]) = .next t ∧ t.runState = .fault) ∧
      (∃ t, step (busy 9 [0x39, 0xFF, 3, 0, 0]) = .next t ∧ t.runState = .running) ∧
      (busy 9 []).Inv ∧ ∃ t, step (busy 9 []) = .next t ∧ t.runState = .done :=
  ⟨⟨by decide, by decide, by decide, by decide, fun _ => ⟨rfl, rfl, rfl⟩, fun h => absurd h (by decide)⟩,
    ⟨_, rfl, rfl⟩, ⟨_, rfl, rfl⟩,
    ⟨by decide, by decide, by decide, by decide, fun _ => ⟨rfl, rfl, rfl⟩, fun h => absurd h (by decide)⟩,
    ⟨_, rfl, rfl⟩⟩

theorem test_wit_EncodedStreamKeepsCauseInv :
    (boot (encodeProgram [.storeMemory 1024])).Inv ∧
      (boot (encodeProgram [.storeMemory 1024])).stream = encodeProgram [.storeMemory 1024] ∧
      (boot (encodeProgram [.storeMemory 1024])).cause = .none ∧
      ∃ t, step (boot (encodeProgram [.storeMemory 1024])) = .next t ∧ t.cause = .outOfBounds :=
  ⟨⟨by decide, by decide, by decide, by decide, fun _ => ⟨rfl, rfl, rfl⟩, fun h => absurd h (by decide)⟩,
    rfl, rfl, ⟨_, rfl, rfl⟩⟩

theorem test_wit_EveryRunEnds :
    (∃ t, step (boot [0x89, 0, 0, 0, 0]) = .next t ∧ t.runState = .running) ∧
      [0x89, 0, 0, 0, 0].length = 5 * 1 ∧
      ∀ k t, stepN k (boot [0x89, 0, 0, 0, 0]) = some t → t.runState ≠ .fault := by
  refine ⟨⟨_, rfl, rfl⟩, rfl, fun k t h => ?_⟩
  match k, h with
  | 0, h => cases h; decide
  | 1, h => cases h; decide
  | 2, h => cases h; decide
  | k + 3, h => exact absurd (show (none : Option State) = some t from h) (by simp)

theorem test_wit_FaultsArePrecise :
    (stepN 2 (boot [0x89, 0, 0, 0, 0, 0x58, 0, 0, 0, 0])).map State.runState = some .fault := by decide

theorem test_wit_LatchesCarryNothing :
    (busy 1023 [0x58, 0, 0, 0, 0]).eraseLatches =
        { busy 1023 [0x58, 0, 0, 0, 0] with ir := 7, mar := 8, mdr := 0xFFFFFFFF }.eraseLatches ∧
      (stepN 2 (busy 1023 [0x58, 0, 0, 0, 0])).isSome = true := by decide

theorem test_wit_CellHoldsLastStore :
    Memory.wf (busy 9 []).mem = true ∧
      (stepN 1 (busy 9 [0x39, 0xFF, 3, 0, 0])).map State.mem = some [(0, 4), (1023, 9)] ∧
      storesMade 1 (busy 9 [0x39, 0xFF, 3, 0, 0]) = [(1023, 9)] ∧
      (stepN 1 (boot [0x39, 0, 0, 0, 0])).isSome = true := by decide

theorem test_wit_PcNeverWraps :
    launch 3 [0x89, 0, 0, 0, 0] = .next (boot [0x89, 0, 0, 0, 0]) ∧
      (stepN 2 (boot [0x89, 0, 0, 0, 0])).map State.pc = some 5 := ⟨rfl, by decide⟩

theorem test_wit_EncodedProgramsAreNeverMalformed :
    (stepN 2 (boot (encodeProgram [.notAcc 0, .storeMemory 1024]))).map State.cause = some .outOfBounds ∧
      (stepN 2 (boot (encodeProgram [.notAcc 0]))).map State.cause = some .none := by decide

theorem test_wit_CanonicalMemoriesAreEqual :
    Memory.wf [(0, 4), (1023, 6)] = true ∧ Memory.wf (Memory.write [(0, 4)] 1023 6) = true ∧
      ∀ a, a < 1024 → Memory.read [(0, 4), (1023, 6)] a = Memory.read (Memory.write [(0, 4)] 1023 6) a :=
  ⟨by decide, by decide, fun _ _ => rfl⟩

theorem test_wit_ResetValues :
    (busy 9 [1]).stream = (st 0 [] [1]).stream ∧ (1023 : Nat) < 1024 := by decide

theorem test_wit_LaunchRefusesLongStreams :
    (List.replicate 7 (0 : Byte)).length ≤ 2 ^ 3 - 1 ∧ 2 ^ 3 - 1 < (List.replicate 8 (0 : Byte)).length := by decide

theorem test_wit_ResultReadGivesTheSlice :
    let s : State := { busy 9 [] with runState := .done }
    s.runState = .done ∧ s.resultRead 1023 1024 = .cells [6] ∧ s.resultRead 1024 1024 = .cells [] ∧
      s.resultRead 1024 1025 = .outOfBounds ∧ s.resultRead 1 0 = .outOfBounds ∧
      ¬(busy 9 []).runState = .done ∧ (busy 9 []).resultRead 0 0 = .refused := by decide

theorem test_wit_DebugPortsShowTheState : (1023 : Nat) < 1024 ∧ (busy 9 []).debugMem 1023 = some 6 := by decide

theorem test_wit_StatusWordLayout : ∃ t, exec (.loadMemory 0) (busy 1024 []) = .next t := ⟨_, rfl⟩

theorem test_wit_AssemblerTakesOperandsModulo :
    ("NOT", Opcode.notAcc) ∈ [("LOAD_CONST", Opcode.loadConst), ("LOAD_MEMORY", Opcode.loadMemory),
        ("STORE_MEMORY", Opcode.storeMemory), ("NOT", Opcode.notAcc)] ∧
      (0 : Int) ≤ 0 ∧ (-1 : Int) < 0 := by decide

theorem test_wit_AssemblerAcceptsExactlyWellFormed :
    assemble [{ command := "NOT", operand := none }] = .ok [0x89, 0, 0, 0, 0] ∧
      assemble [{ command := "NOT", operand := none }, { command := "not", operand := none }] =
        .error (.unknownCommand "not") := by decide

theorem test_wit_ProgramRecordsStandInOrder :
    [Instr.notAcc 1, Instr.loadConst 2][1]? = some (Instr.loadConst 2) := by decide

end Sys2Proof.Tests
end

section
/-! The launch (R8): which streams a build accepts, and what the launch answers to each. -/

namespace Sys2Proof.Machine

/-- The launch condition (R8). -/
theorem streamFits_iff {pcBits : Nat} {stream : List Byte} :
    streamFits pcBits stream = true ↔ stream.length ≤ 2 ^ pcBits - 1 :=
  decide_eq_true_iff

/-- A stream within PC_BITS boots. -/
theorem launch_of_fits {pcBits : Nat} {stream : List Byte} (h : stream.length ≤ 2 ^ pcBits - 1) :
    launch pcBits stream = .next (boot stream) :=
  if_pos (streamFits_iff.2 h)

/-- A stream beyond PC_BITS is refused and never run. -/
theorem launch_of_too_long {pcBits : Nat} {stream : List Byte} (h : 2 ^ pcBits - 1 < stream.length) :
    launch pcBits stream = .refused .streamTooLong :=
  if_neg fun hfits => Nat.not_le_of_lt h (streamFits_iff.1 hfits)

/-- Settles O48, by the two outcomes of the launch. -/
theorem launchRefusesLongStreams : Obligations.LaunchRefusesLongStreams := by
  intro k stream
  constructor
  · intro hfits
    exact ⟨launch_of_fits hfits, boot_stream stream⟩
  · intro hlong
    exact launch_of_too_long hlong

end Sys2Proof.Machine
end

section
/-! PC and the fault fields (R16, R21). What a step does to them is decided by how it ends: before its last write, which is
`finish`, `advance` or `raise`, it has written ACC, MEM and the latches only. -/

namespace Sys2Proof.Machine

/-- `u` differs from `s` in ACC, MEM and the transient latches only. -/
structure State.SameControl (s u : State) : Prop where
  pc : u.pc = s.pc
  runState : u.runState = s.runState
  cause : u.cause = s.cause
  faultPc : u.faultPc = s.faultPc
  faultInfo : u.faultInfo = s.faultInfo
  stream : u.stream = s.stream

variable {s t u : State}

@[refl] theorem State.SameControl.refl (s : State) : s.SameControl s := ⟨rfl, rfl, rfl, rfl, rfl, rfl⟩

@[trans] theorem State.SameControl.trans (hsu : s.SameControl u) (hut : u.SameControl t) : s.SameControl t :=
  ⟨hut.pc.trans hsu.pc, hut.runState.trans hsu.runState, hut.cause.trans hsu.cause, hut.faultPc.trans hsu.faultPc,
    hut.faultInfo.trans hsu.faultInfo, hut.stream.trans hsu.stream⟩

theorem State.sameControl_setAcc (s : State) (v : Word) : s.SameControl (s.setAcc v) := ⟨rfl, rfl, rfl, rfl, rfl, rfl⟩
theorem State.sameControl_setIr (s : State) (r : Record) : s.SameControl (s.setIr r) := ⟨rfl, rfl, rfl, rfl, rfl, rfl⟩
theorem State.sameControl_setMar (s : State) (a : Word) : s.SameControl (s.setMar a) := ⟨rfl, rfl, rfl, rfl, rfl, rfl⟩
theorem State.sameControl_loadCell (s : State) : s.SameControl s.loadCell := ⟨rfl, rfl, rfl, rfl, rfl, rfl⟩
theorem State.sameControl_storeCell (s : State) : s.SameControl s.storeCell := ⟨rfl, rfl, rfl, rfl, rfl, rfl⟩

/-- A checked access latches MAR and at most accesses a cell before it ends in the advance or in fault entry. -/
theorem State.checkedAccess_sameControl {access : State → State} (haccess : ∀ v : State, v.SameControl (access v))
    {a : Word} (h : (s.setMar a).checkedAccess access = .next t) :
    ∃ u, s.SameControl u ∧ (t = u.advance ∨ ∃ f info, t = u.raise f info) := by
  rcases State.checkedAccess_cases h with ⟨-, rfl⟩ | ⟨-, rfl⟩
  · exact ⟨_, (s.sameControl_setMar a).trans (haccess _), .inl rfl⟩
  · exact ⟨_, s.sameControl_setMar a, .inr ⟨_, _, rfl⟩⟩

/-- Every instruction ends in the PC advance (R72) or in fault entry (R97), and writes no control field before it. -/
theorem exec_control_cases {i : Instr} (h : exec i s = .next t) :
    ∃ u, s.SameControl u ∧ (t = u.advance ∨ ∃ f info, t = u.raise f info) := by
  cases i with
  | loadConst x => exact ⟨_, s.sameControl_setAcc (immediate x), .inl (Host.Outcome.next.inj h).symm⟩
  | loadMemory x => exact State.checkedAccess_sameControl State.sameControl_loadCell h
  | storeMemory x => exact State.checkedAccess_sameControl State.sameControl_storeCell h
  | notAcc x => exact ⟨_, s.sameControl_setAcc (~~~s.acc), .inl (Host.Outcome.next.inj h).symm⟩

/-- The three ways a step can end, with where PC stands in the stream for each: at the end of the stream it finishes, and
inside the stream it completes a whole record or enters FAULT. -/
theorem step_control_cases (h : step s = .next t) :
    s.runState = .running ∧
      ((s.streamLen ≤ s.pc ∧ t = s.finish) ∨
        ∃ u, s.SameControl u ∧
          ((s.pc + 5 ≤ s.streamLen ∧ t = u.advance) ∨ (s.pc < s.streamLen ∧ ∃ f info, t = u.raise f info))) := by
  obtain ⟨hrun, hcases⟩ := step_cases h
  refine ⟨hrun, ?_⟩
  rcases hcases with hend | ⟨hlt, -, ht⟩ | ⟨hlen, r, -, ⟨i, -, hexec⟩ | ⟨-, ht⟩⟩
  · exact .inl hend
  · exact .inr ⟨s, .refl s, .inr ⟨hlt, _, _, ht⟩⟩
  · obtain ⟨u, hu, hends⟩ := exec_control_cases hexec
    exact .inr ⟨u, (s.sameControl_setIr r).trans hu, hends.imp (⟨hlen, ·⟩) (⟨by omega, ·⟩)⟩
  · exact .inr ⟨_, s.sameControl_setIr r, .inr ⟨by omega, _, _, ht⟩⟩

/-- Settles O33, by the three ways a step can end. -/
theorem pcChangesOnlyByAdvanceAndReset : Obligations.PcChangesOnlyByAdvanceAndReset := by
  refine ⟨fun s t h => ?_, State.hostReset_pc⟩
  obtain ⟨hrun, ⟨hlen, rfl⟩ | ⟨u, hu, ⟨-, rfl⟩ | ⟨-, f, info, rfl⟩⟩⟩ := step_control_cases h
  · exact ⟨by simp, by simp, fun _ => ⟨s.finish_pc, hlen⟩⟩
  · simp [hu.pc, hu.runState, hrun]
  · simp [hu.pc]

/-- Settles O36, by the three ways a step can end: only fault entry writes a fault field. -/
theorem faultFieldsWrittenOnlyByFaultEntry : Obligations.FaultFieldsWrittenOnlyByFaultEntry := by
  refine ⟨fun s t h => ?_, State.hostReset_faultPc⟩
  obtain ⟨hrun, ⟨-, rfl⟩ | ⟨u, hu, ⟨-, rfl⟩ | ⟨-, f, info, rfl⟩⟩⟩ := step_control_cases h
  · simp
  · simp [hu.runState, hu.cause, hu.faultPc, hu.faultInfo, hrun]
  · simp [hu.pc]

end Sys2Proof.Machine
end

section
/-! Data memory over a run (R38): a run's memory is the one it started with, the run's stores written into it in program
order, and a cell of that is what the last store to it left. -/

namespace Sys2Proof.Machine

/-- The memory `m` after these stores, earliest first. -/
def Memory.applyStores : Memory → List (Nat × Word) → Memory
  | m, [] => m
  | m, (a, v) :: rest => Memory.applyStores (Memory.write m a v) rest

/-- The store that an instruction makes when it is dispatched with this ACC (R82). -/
def storeOf (acc : Word) : Instr → Option (Nat × Word)
  | .storeMemory x => if x.toNat < Config.memSize then some (x.toNat, acc) else none
  | .loadConst _ | .loadMemory _ | .notAcc _ => none

variable {s t : State}

/-! ## The memory that a list of stores leaves -/

theorem Memory.applyStores_append (m : Memory) (stores later : List (Nat × Word)) :
    Memory.applyStores m (stores ++ later) = Memory.applyStores (Memory.applyStores m stores) later := by
  induction stores generalizing m with
  | nil => rfl
  | cons store rest ih => exact ih _

/-- A cell holds the value of the last store to it, or what it held before. -/
theorem Memory.read_applyStores {m : Memory} {stores : List (Nat × Word)} (hwf : Memory.wf m = true)
    (hcells : ∀ store ∈ stores, store.1 < Config.memSize) (a : Nat) :
    Memory.read (Memory.applyStores m stores) a = (lastStoreTo a stores).getD (Memory.read m a) := by
  induction stores generalizing m with
  | nil => rfl
  | cons store rest ih =>
    obtain ⟨b, w⟩ := store
    obtain ⟨hb, hrest⟩ := List.forall_mem_cons.1 hcells
    have hwrite : Memory.read (Memory.write m b w) a = if a = b then w else Memory.read m a :=
      Memory.read_write b w a hwf
    rw [Memory.applyStores, ih (Memory.wfFrom_write w hwf b.zero_le hb) hrest, hwrite, lastStoreTo]
    cases lastStoreTo a rest with
    | some v => rfl
    | none =>
      by_cases hab : b = a
      · simp [hab]
      · simp [hab, Ne.symm hab]

/-! ## The store of one instruction -/

/-- An instruction writes MEM by its store only. -/
theorem exec_mem {i : Instr} (h : exec i s = .next t) :
    t.mem = Memory.applyStores s.mem (storeOf s.acc i).toList := by
  cases i with
  | loadConst x => cases h; rfl
  | notAcc x => cases h; rfl
  | loadMemory x => rcases State.checkedAccess_cases h with ⟨-, rfl⟩ | ⟨-, rfl⟩ <;> rfl
  | storeMemory x =>
    rcases State.checkedAccess_cases h with ⟨hlt, rfl⟩ | ⟨hge, rfl⟩
    · have hx : x.toNat < 1024 := by simpa [absoluteAddress] using hlt
      simp [storeOf, hx, absoluteAddress, Memory.applyStores]
    · have hx : ¬x.toNat < 1024 := by simpa [absoluteAddress] using hge
      simp [storeOf, hx, Memory.applyStores]

/-! ## The store of one step -/

/-- Fewer than five bytes are no record (R67). -/
theorem decode_of_short {bytes : List Byte} (hlen : bytes.length < 5) : decode bytes = .truncated bytes.length :=
  if_pos hlen

/-- Five bytes decode to the instruction of their word. -/
theorem decode_of_decodeRecord_some {bytes : List Byte} {i : Instr} (hlen : 5 ≤ bytes.length)
    (h : decodeRecord (packRecord (bytes.take 5)) = some i) : decode bytes = .ok i := by
  simp [decode, h, hlen]

/-- Five bytes with an illegal opcode byte are rejected (R50). -/
theorem decode_of_decodeRecord_none {bytes : List Byte} (hlen : 5 ≤ bytes.length)
    (h : decodeRecord (packRecord (bytes.take 5)) = none) :
    decode bytes = .unknownOpcode (opcodeField (packRecord (bytes.take 5))) := by
  simp [decode, h, hlen]

/-- The store of a step is that of the instruction at PC. -/
theorem State.storeMade_of_decode_ok {i : Instr} (hrun : s.runState = .running)
    (hi : decode (s.stream.drop s.pc) = .ok i) : s.storeMade = storeOf s.acc i := by
  cases i <;> simp [State.storeMade, hrun, hi, storeOf]

/-- Where no instruction stands at PC, a step makes no store. -/
theorem State.storeMade_of_decode_ne_ok (h : ∀ i, decode (s.stream.drop s.pc) ≠ .ok i) : s.storeMade = none := by
  unfold State.storeMade
  split
  · next hi => exact absurd hi (h _)
  · rfl

/-- How many bytes are left at PC. -/
theorem State.length_drop_pc (s : State) : (s.stream.drop s.pc).length = s.streamLen - s.pc := List.length_drop

/-- A step whose stream has no complete record left makes no store. -/
theorem State.storeMade_of_short (h : s.streamLen < s.pc + 5) : s.storeMade = none := by
  have hlen : (s.stream.drop s.pc).length < 5 := by
    rw [State.length_drop_pc]
    omega
  exact State.storeMade_of_decode_ne_ok fun i => by simp [decode_of_short hlen]

/-- A store goes to an existing cell. -/
theorem State.storeMade_lt {a : Nat} {v : Word} (h : s.storeMade = some (a, v)) : a < Config.memSize := by
  unfold State.storeMade at h
  split at h
  · split at h
    · next hx => cases h; exact hx
    · cases h
  · cases h

/-- A step writes MEM by the store that it makes, and in no other way. -/
theorem step_mem (h : step s = .next t) : t.mem = Memory.applyStores s.mem s.storeMade.toList := by
  obtain ⟨hrun, ⟨hend, rfl⟩ | ⟨-, hshort, rfl⟩ | ⟨hlen, r, rfl, hrecord⟩⟩ := step_cases h
  · rw [State.storeMade_of_short (by omega)]; rfl
  · rw [State.storeMade_of_short hshort]; rfl
  · have hbytes : 5 ≤ (s.stream.drop s.pc).length := by
      rw [State.length_drop_pc]
      omega
    rcases hrecord with ⟨i, hi, hexec⟩ | ⟨hillegal, rfl⟩
    · rw [State.storeMade_of_decode_ok hrun (decode_of_decodeRecord_some hbytes hi)]
      exact (exec_mem hexec :)
    · rw [State.storeMade_of_decode_ne_ok fun i => by simp [decode_of_decodeRecord_none hbytes hillegal]]
      rfl

/-! ## The stores of a run -/

/-- A run of `n + 1` steps is a step and a run of `n`. -/
theorem stepN_succ_eq_some {n : Nat} :
    stepN (n + 1) s = some t ↔ ∃ u, step s = .next u ∧ stepN n u = some t := by
  rw [stepN]
  cases step s <;> simp

theorem storesMade_succ (n : Nat) (h : step s = .next t) :
    storesMade (n + 1) s = s.storeMade.toList ++ storesMade n t := by
  simp [storesMade, h]

/-- A run's stores go to existing cells. -/
theorem storesMade_lt (n : Nat) (s : State) : ∀ store ∈ storesMade n s, store.1 < Config.memSize := by
  induction n generalizing s with
  | zero => simp [storesMade]
  | succ n ih =>
    cases h : step s with
    | next u =>
      rw [storesMade_succ n h, List.forall_mem_append]
      exact ⟨fun _ hmem => State.storeMade_lt (Option.mem_toList.1 hmem), ih u⟩
    | fault r => simp [storesMade, h]
    | refused r => simp [storesMade, h]

/-- A run leaves the memory it started with, its stores written into it. -/
theorem stepN_mem {n : Nat} (h : stepN n s = some t) : t.mem = Memory.applyStores s.mem (storesMade n s) := by
  induction n generalizing s with
  | zero => cases h; rfl
  | succ n ih =>
    obtain ⟨u, hstep, hrun⟩ := stepN_succ_eq_some.1 h
    rw [ih hrun, step_mem hstep, storesMade_succ n hstep, Memory.applyStores_append]

/-- Settles O43: the run's memory is its stores applied to the first, and these leave in each cell the last one to it. A boot
starts from the empty memory, where every cell is 0. -/
theorem cellHoldsLastStore : Obligations.CellHoldsLastStore := by
  have hruns : ∀ (n : Nat) (s t : State), Memory.wf s.mem = true → stepN n s = some t →
      ∀ a, Memory.read t.mem a = (lastStoreTo a (storesMade n s)).getD (Memory.read s.mem a) := by
    intro n s t hwf hrun a
    rw [stepN_mem hrun]
    exact Memory.read_applyStores hwf (storesMade_lt n s) a
  exact ⟨hruns, fun n stream t hrun => hruns n (boot stream) t State.reset_mem_wf hrun⟩

end Sys2Proof.Machine
end

section
/-! The result port (R43, R44): what a read answers in each STATE and for each range. -/

namespace Sys2Proof.Machine

variable {s : State} {start stop : Nat}

/-- In DONE, a range within memory gives its cells (R43). -/
theorem State.resultRead_of_range (hdone : s.runState = .done) (hrange : start ≤ stop ∧ stop ≤ 1024) :
    s.resultRead start stop = .cells ((List.range (stop - start)).map fun k => Memory.read s.mem (start + k)) := by
  simp [State.resultRead, hdone, hrange]

/-- In DONE, any other range is the port error OutOfBounds (R43). -/
theorem State.resultRead_of_bad_range (hdone : s.runState = .done) (hrange : ¬(start ≤ stop ∧ stop ≤ 1024)) :
    s.resultRead start stop = .outOfBounds := by
  simp only [State.resultRead, hdone]
  exact if_neg hrange

/-- Outside DONE the read is refused, whatever the range (R44). -/
theorem State.resultRead_of_not_done (h : s.runState ≠ .done) : s.resultRead start stop = .refused := by
  cases hs : s.runState with
  | done => exact absurd hs h
  | running => simp [State.resultRead, hs]
  | fault => simp [State.resultRead, hs]

/-- Settles O49, by the three answers of the port; its default range is the whole memory by definition. -/
theorem resultReadGivesTheSlice : Obligations.ResultReadGivesTheSlice := by
  intro s start stop
  refine ⟨fun hdone hrange => ?_, State.resultRead_of_bad_range, State.resultRead_of_not_done, rfl⟩
  exact ⟨_, State.resultRead_of_range hdone hrange, by simp, fun k hk => by simp [hk]⟩

end Sys2Proof.Machine
end

section
/-! The record layout (R46) and the opcode map (R48): the 40-bit word of five bytes is their concatenation, so that the
decoder's fields are slices of it, and the select lines invert `opcodeByte`. -/

namespace Sys2Proof

variable {b b1 b2 b3 b4 : Byte} {rest : List Byte} {op : Opcode}

/-! ## The fields of a record -/

/-- A byte put below a bit string is the least significant digit in base 256. -/
theorem toNat_append_byte {n : Nat} (high : BitVec n) (low : Byte) :
    (high ++ low).toNat = low.toNat + 256 * high.toNat := by
  rw [BitVec.toNat_append, ← Nat.shiftLeft_add_eq_or_of_lt low.isLt, Nat.shiftLeft_eq]
  omega

/-- The word of a record holds its bytes side by side, byte 0 lowest (R45). -/
theorem packRecord_five (b0 b1 b2 b3 b4 : Byte) :
    packRecord [b0, b1, b2, b3, b4] = (((b4 ++ b3) ++ b2) ++ b1) ++ b0 := by
  apply BitVec.eq_of_toNat_eq
  simp only [packRecord, List.foldr, BitVec.toNat_ofNat, toNat_append_byte]
  omega

/-- The opcode field is byte 0, raw (R46). -/
theorem opcodeField_packRecord (b0 b1 b2 b3 b4 : Byte) : opcodeField (packRecord [b0, b1, b2, b3, b4]) = b0 := by
  rw [packRecord_five]
  exact BitVec.extractLsb'_append_eq_right

/-- The operand field is bytes 1 to 4, byte 1 lowest (R46). -/
theorem operandField_packRecord (b0 b1 b2 b3 b4 : Byte) :
    operandField (packRecord [b0, b1, b2, b3, b4]) = ((b4 ++ b3) ++ b2) ++ b1 := by
  rw [packRecord_five]
  exact BitVec.extractLsb'_append_eq_left

/-- Settles O1, by the record's word as a concatenation of bytes; the sum is that concatenation read in base 256. -/
theorem recordFieldsAreLittleEndian : Obligations.RecordFieldsAreLittleEndian := by
  intro b0 b1 b2 b3 b4
  refine ⟨opcodeField_packRecord .., ?_, operandField_packRecord ..⟩
  rw [operandField_packRecord]
  simp only [toNat_append_byte]
  omega

/-! ## The opcode map -/

/-- The select lines pick the opcode whose byte it is (R70). -/
@[simp] theorem selectOpcode_opcodeByte (op : Opcode) : selectOpcode (opcodeByte op) = some op := by
  cases op <;> rfl

/-- The select lines pick an opcode for its own byte only: they compare all eight bits (R48). -/
theorem selectOpcode_eq_some_iff : selectOpcode b = some op ↔ b = opcodeByte op := by
  constructor
  · intro h
    unfold selectOpcode at h
    split_ifs at h with hb hb hb hb <;> cases h <;> exact eq_of_beq hb
  · rintro rfl
    exact selectOpcode_opcodeByte op

/-- No opcode is picked exactly for the bytes outside the map (R50). -/
theorem selectOpcode_eq_none_iff : selectOpcode b = none ↔ ∀ op, b ≠ opcodeByte op := by
  simp only [Option.eq_none_iff_forall_ne_some, ne_eq, selectOpcode_eq_some_iff]

/-- A record whose byte 0 is in the map is the instruction of that opcode with the operand of the next four bytes. -/
theorem decodeRecord_of_selectOpcode_some (h : selectOpcode b = some op) :
    decodeRecord (packRecord [b, b1, b2, b3, b4]) = some (op.instr (((b4 ++ b3) ++ b2) ++ b1)) := by
  simp only [decodeRecord, opcodeField_packRecord, operandField_packRecord, h]

/-- A record whose byte 0 is outside the map is no instruction, whatever the other bytes are. -/
theorem decodeRecord_of_selectOpcode_none (h : selectOpcode b = none) :
    decodeRecord (packRecord [b, b1, b2, b3, b4]) = none := by
  simp only [decodeRecord, opcodeField_packRecord, h]

/-- Bytes that begin with an opcode byte and an operand decode to that instruction. -/
theorem decode_of_opcodeByte (h : b = opcodeByte op) :
    decode (b :: b1 :: b2 :: b3 :: b4 :: rest) = .ok (op.instr (((b4 ++ b3) ++ b2) ++ b1)) :=
  have hsome := decodeRecord_of_selectOpcode_some (b1 := b1) (b2 := b2) (b3 := b3) (b4 := b4)
    (selectOpcode_eq_some_iff.2 h)
  Machine.decode_of_decodeRecord_some (bytes := b :: b1 :: b2 :: b3 :: b4 :: rest) (by simp) hsome

/-- A whole record whose first byte is outside the map is rejected under that byte. -/
theorem decode_of_illegal (h : ∀ op, b ≠ opcodeByte op) :
    decode (b :: b1 :: b2 :: b3 :: b4 :: rest) = .unknownOpcode b :=
  have hnone := decodeRecord_of_selectOpcode_none (b1 := b1) (b2 := b2) (b3 := b3) (b4 := b4)
    (selectOpcode_eq_none_iff.2 h)
  have hrejected := Machine.decode_of_decodeRecord_none (bytes := b :: b1 :: b2 :: b3 :: b4 :: rest) (by simp) hnone
  hrejected.trans (congrArg Decoded.unknownOpcode (opcodeField_packRecord ..))

/-- Settles O6, by the value of the opcode byte. -/
theorem opcodeMap : Obligations.OpcodeMap := by
  intro b b1 b2 b3 b4 rest operand
  split_ifs with hstore hconst hload hnot
  · exact decode_of_opcodeByte (op := .storeMemory) (BitVec.eq_of_toNat_eq hstore)
  · exact decode_of_opcodeByte (op := .loadConst) (BitVec.eq_of_toNat_eq hconst)
  · exact decode_of_opcodeByte (op := .loadMemory) (BitVec.eq_of_toNat_eq hload)
  · exact decode_of_opcodeByte (op := .notAcc) (BitVec.eq_of_toNat_eq hnot)
  · apply decode_of_illegal
    rintro (_ | _ | _ | _) rfl
    · exact hconst rfl
    · exact hload rfl
    · exact hstore rfl
    · exact hnot rfl

end Sys2Proof
end

section
/-! The illegal opcodes (R50, R92): how many there are, and the step at a record with one of them. -/

namespace Sys2Proof.Machine

variable {s : State}

/-- At a complete record whose opcode byte is illegal, the step latches the record and raises UnknownOpcode (R71). -/
theorem step_of_decodeRecord_none (hrun : s.runState = .running) (hlen : s.pc + 5 ≤ s.streamLen) {r : Record}
    (hr : packRecord ((s.stream.drop s.pc).take 5) = r) (hnone : decodeRecord r = none) :
    step s = .next ((s.setIr r).raiseUnknown (opcodeField r)) := by
  have hfetch : s.fetch = .record r := by
    rcases s.fetch_cases with ⟨-, hend⟩ | ⟨-, -, hshort⟩ | ⟨hrecord, -⟩
    · omega
    · omega
    · rw [hrecord, hr]
  simp only [step, hrun, hfetch, State.setIr_ir, hnone]

/-- The `illegal` line is low exactly for the four bytes of the map (R70). -/
theorem illegal_eq_false_iff {b : Byte} : illegal b = false ↔ ∃ op, opcodeByte op = b := by
  simp only [illegal, selLoadConst, selLoadMemory, selStoreMemory, selNot, Bool.not_eq_false', Bool.or_eq_true,
    beq_iff_eq]
  constructor
  · rintro (((rfl | rfl) | rfl) | rfl) <;> exact ⟨_, rfl⟩
  · rintro ⟨_ | _ | _ | _, rfl⟩ <;> simp

/-- The legal opcode bytes, by their numbers (R48). -/
theorem legal_bytes_perm :
    ((List.range 256).filter fun n => !illegal (BitVec.ofNat 8 n)).Perm [57, 62, 88, 137] := by
  refine (List.perm_ext_iff_of_nodup (List.nodup_range.filter _) (by decide)).2 fun n => ?_
  simp only [List.mem_filter, List.mem_range, Bool.not_eq_true', illegal_eq_false_iff, List.mem_cons, List.not_mem_nil,
    or_false]
  constructor
  · rintro ⟨hn, op, hop⟩
    have hnum : (opcodeByte op).toNat = n := by rw [hop, BitVec.toNat_ofNat, Nat.mod_eq_of_lt hn]
    subst hnum
    cases op <;> decide
  · rintro (rfl | rfl | rfl | rfl)
    · exact ⟨by decide, .storeMemory, rfl⟩
    · exact ⟨by decide, .loadConst, rfl⟩
    · exact ⟨by decide, .loadMemory, rfl⟩
    · exact ⟨by decide, .notAcc, rfl⟩

/-- The illegal opcode bytes (R50) are the 256 bytes without the four legal ones. -/
theorem illegal_count : ((List.range 256).filter fun n => illegal (BitVec.ofNat 8 n)).length = 252 := by
  have hsplit := List.length_eq_length_filter_add (l := List.range 256) fun n => illegal (BitVec.ofNat 8 n)
  rw [List.length_range, legal_bytes_perm.length_eq] at hsplit
  exact Nat.add_right_cancel hsplit.symm

/-- Settles O28, by the step at a record that decodes to no instruction. -/
theorem illegalOpcodeRaises : Obligations.IllegalOpcodeRaises := by
  refine ⟨illegal_count, ?_⟩
  intro s b b1 b2 b3 b4 rest hrun hbytes ⟨hstore, hconst, hload, hnot⟩
  have hlen : s.pc + 5 ≤ s.streamLen := by
    have h := s.length_drop_pc
    rw [hbytes] at h
    simp only [List.length_cons] at h
    omega
  have hillegal : ∀ op, b ≠ opcodeByte op := by
    rintro (_ | _ | _ | _)
    exacts [hconst, hload, hstore, hnot]
  have hstep := step_of_decodeRecord_none hrun hlen (r := packRecord [b, b1, b2, b3, b4]) (by rw [hbytes]; rfl)
    (decodeRecord_of_selectOpcode_none (selectOpcode_eq_none_iff.2 hillegal))
  rw [opcodeField_packRecord] at hstep
  exact ⟨_, hstep, rfl⟩

end Sys2Proof.Machine
end

section
/-! The stream of a program (R58). -/

namespace Sys2Proof

/-- Every record is five bytes (R45), by the statement made instruction by instruction. -/
@[simp] theorem encode_length (i : Instr) : (encode i).length = 5 := by
  cases i with
  | loadConst x => exact Laws.EncodeLength.loadConst x
  | loadMemory x => exact Laws.EncodeLength.loadMemory x
  | storeMemory x => exact Laws.EncodeLength.storeMemory x
  | notAcc x => exact Laws.EncodeLength.notAcc x

@[simp] theorem encodeProgram_nil : encodeProgram [] = [] := rfl

@[simp] theorem encodeProgram_cons (i : Instr) (program : List Instr) :
    encodeProgram (i :: program) = encode i ++ encodeProgram program := rfl

theorem encodeProgram_length (program : List Instr) : (encodeProgram program).length = 5 * program.length := by
  induction program with
  | nil => rfl
  | cons i program ih =>
    simp only [encodeProgram_cons, List.length_append, encode_length, ih, List.length_cons]
    omega

/-- Past the records of the first `k` instructions stands the stream of the others. -/
theorem encodeProgram_drop (program : List Instr) (k : Nat) :
    (encodeProgram program).drop (5 * k) = encodeProgram (program.drop k) := by
  induction k generalizing program with
  | zero => rfl
  | succ k ih =>
    cases program with
    | nil => simp
    | cons i program =>
      rw [Nat.mul_succ, Nat.add_comm, encodeProgram_cons, ← List.drop_drop, List.drop_left' (encode_length i), ih,
        List.drop_succ_cons]

/-- Settles O54: past the first `k` records stands the stream of the program from instruction `k` on. -/
theorem programRecordsStandInOrder : Obligations.ProgramRecordsStandInOrder := by
  intro program
  refine ⟨encodeProgram_length program, fun k i hk => ?_⟩
  have hrest : program.drop k = i :: program.drop (k + 1) := by
    rw [List.drop_eq_getElem?_toList_append, hk]
    rfl
  rw [encodeProgram_drop, hrest, encodeProgram_cons, List.take_left' (encode_length i)]

end Sys2Proof
end

section
/-! The assembler's contract for one record (R54, R56). -/

namespace Sys2Proof

variable {r : SymRecord} {op : Opcode}

/-- A known command with an operand that is not negative takes its low 32 bits (R56), and 0 when it is absent (R54). -/
theorem assembleRecord_of_nonneg (hop : resolveCommand r.command = some op) (hx : 0 ≤ r.operand.getD 0) :
    assembleRecord r = .ok (op.instr (BitVec.ofNat 32 (r.operand.getD 0).toNat)) := by
  simp only [assembleRecord, hop, if_neg (Int.not_lt.2 hx)]

/-- A known command with a negative operand is refused (R56). -/
theorem assembleRecord_of_neg (hop : resolveCommand r.command = some op) (hx : r.operand.getD 0 < 0) :
    assembleRecord r = .error (.negativeOperand (r.operand.getD 0)) := by
  simp only [assembleRecord, hop, if_pos hx]

/-- The four names of R54. -/
theorem resolveCommand_of_mem {name : String}
    (h : (name, op) ∈ [("LOAD_CONST", Opcode.loadConst), ("LOAD_MEMORY", Opcode.loadMemory),
      ("STORE_MEMORY", Opcode.storeMemory), ("NOT", Opcode.notAcc)]) : resolveCommand name = some op := by
  simp only [List.mem_cons, Prod.mk.injEq, List.not_mem_nil, or_false] at h
  rcases h with ⟨rfl, rfl⟩ | ⟨rfl, rfl⟩ | ⟨rfl, rfl⟩ | ⟨rfl, rfl⟩ <;> rfl

/-- Settles O52, by the sign of the operand. -/
theorem assemblerTakesOperandsModulo : Obligations.AssemblerTakesOperandsModulo := by
  intro name op hmem
  have hop := resolveCommand_of_mem hmem
  refine ⟨assembleRecord_of_nonneg hop le_rfl, fun x hx => ?_, fun x hx => assembleRecord_of_neg hop hx⟩
  refine ⟨BitVec.ofNat 32 x.toNat, ?_, assembleRecord_of_nonneg hop hx⟩
  rw [BitVec.toNat_ofNat]
  omega

end Sys2Proof
end

section
/-! The stream parser (R65 to R68): the step from every RUNNING state, by what stands at PC, and the end of a run whose
stream leaves a tail of 1 to 4 bytes. -/

namespace Sys2Proof.Machine

variable {s : State}

/-! ## What fetching gives -/

theorem State.fetch_of_end (hend : s.streamLen ≤ s.pc) : s.fetch = .endOfStream := if_pos hend

theorem State.fetch_of_tail (hlt : s.pc < s.streamLen) (hshort : s.streamLen < s.pc + 5) :
    s.fetch = .truncated (s.streamLen - s.pc) := by
  have hread : s.streamRead s.pc Config.recordLen = none := State.streamRead_eq_none.2 hshort
  rw [State.fetch, if_neg (Nat.not_le_of_lt hlt), hread]

theorem State.fetch_of_record (hlen : s.pc + 5 ≤ s.streamLen) :
    s.fetch = .record (packRecord ((s.stream.drop s.pc).take 5)) := by
  have hread : s.streamRead s.pc Config.recordLen = some ((s.stream.drop s.pc).take 5) :=
    State.streamRead_eq_some.2 ⟨hlen, rfl⟩
  rw [State.fetch, if_neg (by omega), hread]

/-! ## The step, by what is fetched -/

/-- At the end of the stream the step finishes the run (R66). -/
theorem step_of_end (hrun : s.runState = .running) (hend : s.streamLen ≤ s.pc) : step s = .next s.finish := by
  simp only [step, hrun, State.fetch_of_end hend]

/-- At a tail of 1 to 4 bytes the step raises TruncatedStream (R67). -/
theorem step_of_tail (hrun : s.runState = .running) (hlt : s.pc < s.streamLen) (hshort : s.streamLen < s.pc + 5) :
    step s = .next (s.raiseTruncated (s.streamLen - s.pc)) := by
  simp only [step, hrun, State.fetch_of_tail hlt hshort]

/-- At a complete record that decodes, the step latches the record and runs its instruction (R68, R71). -/
theorem step_of_decodeRecord_some (hrun : s.runState = .running) (hlen : s.pc + 5 ≤ s.streamLen) {r : Record}
    (hr : packRecord ((s.stream.drop s.pc).take 5) = r) {i : Instr} (hi : decodeRecord r = some i) :
    step s = exec i (s.setIr r) := by
  simp only [step, hrun, State.fetch_of_record hlen, hr, State.setIr_ir, hi]

/-! ## What a complete record can do -/

/-- A checked access always answers: it completes, or it raises OutOfBounds. -/
theorem State.checkedAccess_next {access : State → State} (haccess : ∀ v : State, v.SameControl (access v)) (a : Word) :
    ∃ u, s.SameControl u ∧
      ((s.setMar a).checkedAccess access = .next u.advance ∨
        ∃ info, (s.setMar a).checkedAccess access = .next (u.raise .outOfBounds info)) := by
  rcases Nat.lt_or_ge a.toNat 1024 with hvalid | hinvalid
  · exact ⟨_, (s.sameControl_setMar a).trans (haccess _), .inl (State.checkedAccess_of_valid hvalid)⟩
  · exact ⟨_, s.sameControl_setMar a, .inr ⟨_, State.checkedAccess_of_invalid hinvalid⟩⟩

/-- Every instruction answers in every state: it completes its record (R72), or it raises OutOfBounds (R93). -/
theorem exec_next (i : Instr) (s : State) :
    ∃ u, s.SameControl u ∧ (exec i s = .next u.advance ∨ ∃ info, exec i s = .next (u.raise .outOfBounds info)) := by
  cases i with
  | loadConst x => exact ⟨_, s.sameControl_setAcc (immediate x), .inl rfl⟩
  | loadMemory x => exact State.checkedAccess_next State.sameControl_loadCell s.indirectAddress
  | storeMemory x => exact State.checkedAccess_next State.sameControl_storeCell (absoluteAddress x)
  | notAcc x => exact ⟨_, s.sameControl_setAcc (~~~s.acc), .inl rfl⟩

/-- The step at a complete record completes it, or raises a fault other than TruncatedStream. -/
theorem step_of_record (hrun : s.runState = .running) (hlen : s.pc + 5 ≤ s.streamLen) :
    ∃ u, s.SameControl u ∧
      (step s = .next u.advance ∨ ∃ f info, f ≠ .truncatedStream ∧ step s = .next (u.raise f info)) := by
  obtain ⟨r, hr⟩ : ∃ r, packRecord ((s.stream.drop s.pc).take 5) = r := ⟨_, rfl⟩
  cases hi : decodeRecord r with
  | none =>
    exact ⟨_, s.sameControl_setIr r, .inr ⟨.unknownOpcode, _, nofun, step_of_decodeRecord_none hrun hlen hr hi⟩⟩
  | some i =>
    rw [step_of_decodeRecord_some hrun hlen hr hi]
    obtain ⟨u, hu, hends⟩ := exec_next i (s.setIr r)
    exact ⟨u, (s.sameControl_setIr r).trans hu, hends.imp_right fun ⟨info, h⟩ => ⟨.outOfBounds, info, nofun, h⟩⟩

/-- A fault other than TruncatedStream records one of the two other causes (R90). -/
theorem RunFault.cause_of_ne_truncatedStream {f : RunFault} (h : f ≠ .truncatedStream) :
    f.cause = .unknownOpcode ∨ f.cause = .outOfBounds := by
  cases f with
  | truncatedStream => exact absurd rfl h
  | unknownOpcode => exact .inl rfl
  | outOfBounds => exact .inr rfl

/-- A step is enabled in every RUNNING state (R65). -/
theorem exists_step_of_running (hrun : s.runState = .running) : ∃ t, step s = .next t := by
  rcases Nat.lt_or_ge s.pc s.streamLen with hlt | hend
  · rcases Nat.lt_or_ge s.streamLen (s.pc + 5) with hshort | hlen
    · exact ⟨_, step_of_tail hrun hlt hshort⟩
    · obtain ⟨u, -, hnext | ⟨f, info, -, hraise⟩⟩ := step_of_record hrun hlen
      · exact ⟨_, hnext⟩
      · exact ⟨_, hraise⟩
  · exact ⟨_, step_of_end hrun hend⟩

/-! ## The run to a tail -/

/-- With `k` complete records between PC and a tail of 1 to 4 bytes at `tail`, the run ends in TruncatedStream at the tail,
unless one of these records raises another fault. -/
theorem exists_stepN_fault_of_tail {tail k : Nat} (hrun : s.runState = .running) (hpc : s.pc + 5 * k = tail)
    (hlt : tail < s.streamLen) (hshort : s.streamLen < tail + 5) :
    ∃ n t, stepN n s = some t ∧ t.runState = .fault ∧
      (t.cause = .truncatedStream ∧ t.faultPc = tail ∨
        (t.cause = .unknownOpcode ∨ t.cause = .outOfBounds) ∧ t.faultPc + 5 ≤ s.streamLen) := by
  induction k generalizing s with
  | zero =>
    obtain rfl : s.pc = tail := hpc
    exact ⟨1, _, stepN_succ_eq_some.2 ⟨_, step_of_tail hrun hlt hshort, rfl⟩, rfl, .inl ⟨rfl, rfl⟩⟩
  | succ k ih =>
    have hlen : s.pc + 5 ≤ s.streamLen := by omega
    obtain ⟨u, hu, hnext | ⟨f, info, hf, hraise⟩⟩ := step_of_record hrun hlen
    · have hpcNext : u.advance.pc = s.pc + 5 := congrArg (· + 5) hu.pc
      have hlenNext : u.advance.streamLen = s.streamLen := congrArg List.length hu.stream
      rw [← hlenNext] at hlt hshort ⊢
      obtain ⟨n, t, hstepN, hfault⟩ := ih (s := u.advance) (hu.runState.trans hrun) (by omega) hlt hshort
      exact ⟨n + 1, t, stepN_succ_eq_some.2 ⟨_, hnext, hstepN⟩, hfault⟩
    · have hfaultPc : (u.raise f info).faultPc = s.pc := hu.pc
      exact ⟨1, _, stepN_succ_eq_some.2 ⟨_, hraise, rfl⟩, rfl,
        .inr ⟨RunFault.cause_of_ne_truncatedStream hf, hfaultPc ▸ hlen⟩⟩

/-! ## The obligations -/

/-- Settles O27: the step at a tail, and the run over the complete records before it. -/
theorem boundaryValidation : Obligations.BoundaryValidation := by
  constructor
  · intro s hrun hlt hshort
    have hinfo : (s.raiseTruncated (s.streamLen - s.pc)).faultInfo.toNat = s.stream.length - s.pc :=
      Nat.mod_eq_of_lt (show s.stream.length - s.pc < 2 ^ 32 by omega)
    have htail : s.stream.length < s.pc + 5 := by omega
    exact ⟨_, step_of_tail hrun hlt htail, rfl, rfl, hinfo, by omega, by omega, rfl, rfl, rfl⟩
  · intro stream htail
    exact exists_stepN_fault_of_tail (s := boot stream) (k := stream.length / 5) rfl (Nat.zero_add _)
      (show 5 * (stream.length / 5) < stream.length by omega)
      (show stream.length < 5 * (stream.length / 5) + 5 by omega)

/-- Settles O29: a RUNNING state has its step, and a step that answers was taken in RUNNING. -/
theorem stepEnabledOnlyInRunning : Obligations.StepEnabledOnlyInRunning := by
  intro s
  refine ⟨⟨fun ⟨t, hstep⟩ => ?_, exists_step_of_running⟩, s.hostReset_runState⟩
  obtain ⟨hrun, -⟩ := step_cases hstep
  exact hrun

/-- Settles O25, by the step at the end of the stream. -/
theorem stepTerminates : Obligations.StepTerminates := fun _ => step_of_end

end Sys2Proof.Machine
end

section
/-! Data movement (R80 to R82) from the bytes of a record: a record at PC whose first byte is in the opcode map runs its
instruction, and what that instruction does is decided by its address. -/

namespace Sys2Proof.Machine

variable {s : State}

/-! ## The step at a legal record -/

/-- Five bytes at PC are a complete record. -/
theorem State.record_fits_of_drop {b0 b1 b2 b3 b4 : Byte} {rest : List Byte}
    (hbytes : s.stream.drop s.pc = b0 :: b1 :: b2 :: b3 :: b4 :: rest) : s.pc + 5 ≤ s.streamLen := by
  have hlen := s.length_drop_pc
  simp only [hbytes, List.length_cons] at hlen
  omega

/-- A record whose first byte is in the opcode map is latched, and its instruction runs (R48, R68, R71). -/
theorem step_of_opcodeByte (op : Opcode) {b1 b2 b3 b4 : Byte} {rest : List Byte} (hrun : s.runState = .running)
    (hbytes : s.stream.drop s.pc = opcodeByte op :: b1 :: b2 :: b3 :: b4 :: rest) :
    step s = exec (op.instr (((b4 ++ b3) ++ b2) ++ b1)) (s.setIr (packRecord [opcodeByte op, b1, b2, b3, b4])) :=
  step_of_decodeRecord_some hrun (State.record_fits_of_drop hbytes) (by rw [hbytes]; rfl)
    (decodeRecord_of_selectOpcode_some (selectOpcode_opcodeByte op))

/-! ## The meanings, by the check of their address -/

@[simp] theorem immediate_eq (x : Operand) : immediate x = x := zextW_operand x

@[simp] theorem absoluteAddress_eq (x : Operand) : absoluteAddress x = x := zextW_operand x

/-- LOAD_CONST has no condition (R80). -/
theorem exec_loadConst (x : Operand) (s : State) : exec (.loadConst x) s = .next (s.setAcc x).advance := by
  rw [exec, execLoadConst, immediate_eq]

theorem exec_loadMemory_of_valid (x : Operand) (h : s.acc.toNat < 1024) :
    exec (.loadMemory x) s = .next (s.setMar s.acc).loadCell.advance :=
  State.checkedAccess_of_valid (s := s.setMar s.acc) h

theorem exec_loadMemory_of_invalid (x : Operand) (h : 1024 ≤ s.acc.toNat) :
    exec (.loadMemory x) s = .next ((s.setMar s.acc).raise .outOfBounds s.acc) :=
  State.checkedAccess_of_invalid (s := s.setMar s.acc) h

/-- STORE_MEMORY is the checked store at its operand (R82). -/
theorem exec_storeMemory (x : Operand) (s : State) :
    exec (.storeMemory x) s = (s.setMar x).checkedAccess State.storeCell := by
  rw [exec, execStoreMemory, absoluteAddress_eq]

theorem exec_storeMemory_of_valid {x : Operand} (s : State) (h : x.toNat < 1024) :
    exec (.storeMemory x) s = .next (s.setMar x).storeCell.advance :=
  (exec_storeMemory x s).trans (State.checkedAccess_of_valid (s := s.setMar x) h)

theorem exec_storeMemory_of_invalid {x : Operand} (s : State) (h : 1024 ≤ x.toNat) :
    exec (.storeMemory x) s = .next ((s.setMar x).raise .outOfBounds x) :=
  (exec_storeMemory x s).trans (State.checkedAccess_of_invalid (s := s.setMar x) h)

/-! ## The obligations -/

/-- Settles O9: the step runs LOAD_CONST, which has one outcome. -/
theorem stepLoadConst : Obligations.StepLoadConst := by
  intro s b1 b2 b3 b4 rest hrun hbytes
  exact ⟨_, (step_of_opcodeByte .loadConst hrun hbytes).trans (exec_loadConst _ _), rfl⟩

/-- Settles O10: the step runs LOAD_MEMORY, whose outcome is decided by ACC; which record `r` stands in IR does not
matter to the architectural state. -/
theorem stepLoadMemory : Obligations.StepLoadMemory := by
  intro s b1 b2 b3 b4 rest hrun hbytes
  have hstep := step_of_opcodeByte .loadMemory hrun hbytes
  generalize packRecord _ = r at hstep
  split_ifs with hvalid
  · exact ⟨_, hstep.trans (exec_loadMemory_of_valid _ hvalid), rfl⟩
  · exact ⟨_, hstep.trans (exec_loadMemory_of_invalid _ (Nat.le_of_not_lt hvalid)), rfl⟩

/-- Settles O11: the step runs STORE_MEMORY, whose outcome is decided by the operand; the cells of a completed store are
those of the one write. -/
theorem stepStoreMemory : Obligations.StepStoreMemory := by
  intro s b1 b2 b3 b4 rest hrun hbytes operand
  have hstep := step_of_opcodeByte .storeMemory hrun hbytes
  generalize packRecord _ = r at hstep
  split_ifs with hvalid
  · refine ⟨_, hstep.trans (exec_storeMemory_of_valid _ hvalid), rfl, fun hwf c => ?_⟩
    exact Memory.read_write operand.toNat s.acc c hwf
  · exact ⟨_, hstep.trans (exec_storeMemory_of_invalid _ (Nat.le_of_not_lt hvalid)), rfl⟩

end Sys2Proof.Machine
end

section
/-! NOT (R85) from the bytes of its record: the complement is the exclusive or with the all-ones word. -/

namespace Sys2Proof.Machine

/-- NOT has no condition, and its operand is ignored (R85). -/
theorem exec_notAcc (x : Operand) (s : State) : exec (.notAcc x) s = .next (s.setAcc (~~~s.acc)).advance := rfl

/-- The complement as R85 writes it, with the number 2^32 - 1. -/
theorem not_eq_xor_ofNat (v : Word) : ~~~v = v ^^^ BitVec.ofNat 32 (2 ^ 32 - 1) := by
  have hones : BitVec.ofNat 32 (2 ^ 32 - 1) = BitVec.allOnes 32 := rfl
  rw [hones, BitVec.xor_allOnes]

/-- Settles O12: the step runs NOT, which has one outcome. -/
theorem stepNot : Obligations.StepNot := by
  intro s b1 b2 b3 b4 rest hrun hbytes
  refine ⟨_, (step_of_opcodeByte .notAcc hrun hbytes).trans (exec_notAcc _ _), ?_⟩
  rw [← not_eq_xor_ofNat]
  rfl

end Sys2Proof.Machine
end

section
/-! The run faults (R90 to R97). A fault is a check of the step that applies: the tail check, the opcode check, or the address
check of a data access. Each is inverted here to what the stream and ACC show at PC and to the state that fault entry leaves. -/

namespace Sys2Proof.Machine

variable {s t : State}

/-! ## What each fault reports -/

/-- A tail is shorter than a record, so FAULT_INFO holds its length without loss (R91). -/
theorem State.raiseTruncated_faultInfo_toNat {left : Nat} (hleft : left < 5) :
    (s.raiseTruncated left).faultInfo.toNat = left :=
  Nat.mod_eq_of_lt (hleft.trans (by decide))

/-- FAULT_INFO holds the rejected opcode byte (R92). -/
theorem State.raiseUnknown_faultInfo_toNat (b : Byte) : (s.raiseUnknown b).faultInfo.toNat = b.toNat :=
  BitVec.toNat_setWidth_of_le (by decide)

/-! ## Which check raised a fault -/

/-- In RUNNING, a checked access enters FAULT by its address check only, and then nothing but MAR was written before. -/
theorem State.checkedAccess_fault {access : State → State} (haccess : ∀ v : State, v.SameControl (access v)) {a : Word}
    (hrun : s.runState = .running) (h : (s.setMar a).checkedAccess access = .next t) (hfault : t.runState = .fault) :
    1024 ≤ a.toNat ∧ t = (s.setMar a).raise .outOfBounds a := by
  rcases State.checkedAccess_cases h with ⟨-, rfl⟩ | hinvalid
  · simp [(haccess _).runState, hrun] at hfault
  · exact hinvalid

/-- In RUNNING, an instruction enters FAULT by OutOfBounds only: LOAD_MEMORY at ACC, or STORE_MEMORY at its operand (R93). -/
theorem exec_fault {i : Instr} (hrun : s.runState = .running) (h : exec i s = .next t) (hfault : t.runState = .fault) :
    ∃ a, 1024 ≤ a.toNat ∧ t = (s.setMar a).raise .outOfBounds a ∧
      ((∃ x, i = .loadMemory x ∧ a = s.acc) ∨ i = .storeMemory a) := by
  cases i with
  | loadConst x =>
    cases h
    simp [hrun] at hfault
  | loadMemory x =>
    obtain ⟨hinvalid, ht⟩ := State.checkedAccess_fault State.sameControl_loadCell hrun h hfault
    exact ⟨_, hinvalid, ht, .inl ⟨x, rfl, rfl⟩⟩
  | storeMemory x =>
    rw [exec_storeMemory] at h
    obtain ⟨hinvalid, ht⟩ := State.checkedAccess_fault State.sameControl_storeCell hrun h hfault
    exact ⟨x, hinvalid, ht, .inr rfl⟩
  | notAcc x =>
    cases h
    simp [hrun] at hfault

/-- A complete record at PC has five bytes to decode. -/
theorem State.five_le_length_drop_pc (hlen : s.pc + 5 ≤ s.streamLen) : 5 ≤ (s.stream.drop s.pc).length := by
  rw [State.length_drop_pc]
  omega

/-- The three ways a step can enter FAULT (R90), each with what stands at PC and the whole next state. -/
theorem step_fault_cases (h : step s = .next t) (hfault : t.runState = .fault) :
    (s.pc < s.streamLen ∧ s.streamLen < s.pc + 5 ∧ t = s.raiseTruncated (s.streamLen - s.pc)) ∨
    (∃ r b, decode (s.stream.drop s.pc) = .unknownOpcode b ∧ t = (s.setIr r).raiseUnknown b) ∨
    (∃ r a, 1024 ≤ a.toNat ∧ t = ((s.setIr r).setMar a).raise .outOfBounds a ∧
      ((∃ x, decode (s.stream.drop s.pc) = .ok (.loadMemory x) ∧ a = s.acc) ∨
        decode (s.stream.drop s.pc) = .ok (.storeMemory a))) := by
  obtain ⟨hrun, ⟨-, rfl⟩ | htail | ⟨hlen, r, hr, ⟨i, hi, hexec⟩ | ⟨hillegal, ht⟩⟩⟩ := step_cases h
  · simp at hfault
  · exact .inl htail
  · have hdecode := decode_of_decodeRecord_some (State.five_le_length_drop_pc hlen) (hr ▸ hi)
    obtain ⟨a, hinvalid, ht, ⟨x, rfl, hacc⟩ | rfl⟩ := exec_fault (s := s.setIr r) hrun hexec hfault
    · exact .inr (.inr ⟨_, a, hinvalid, ht, .inl ⟨x, hdecode, hacc⟩⟩)
    · exact .inr (.inr ⟨_, a, hinvalid, ht, .inr hdecode⟩)
  · subst hr
    exact .inr (.inl ⟨_, _, decode_of_decodeRecord_none (State.five_le_length_drop_pc hlen) hillegal, ht⟩)

/-! ## The obligations -/

/-- Settles O17: the address check fails on ACC, and on the operand. -/
theorem outOfBoundsIsRaised : Obligations.OutOfBoundsIsRaised := by
  intro x s
  constructor
  · intro hacc
    exact ⟨_, exec_loadMemory_of_invalid x hacc, rfl⟩
  · intro hx
    exact ⟨_, exec_storeMemory_of_invalid s hx, rfl⟩

/-- Settles O26, by the step at a tail. -/
theorem stepTruncated : Obligations.StepTruncated := by
  intro s hrun hlt hleft
  have hshort : s.streamLen < s.pc + 5 := Nat.sub_lt_iff_lt_add' hlt.le |>.1 hleft
  exact ⟨_, _, State.raiseTruncated_faultInfo_toNat (s := s) hleft, step_of_tail hrun hlt hshort, rfl⟩

/-- Settles O30, by the checks in their order: the end of the stream, the tail, the opcode byte, and for the two
instructions that access data, the address. -/
theorem faultPriority : Obligations.FaultPriority := by
  intro s hrun
  by_cases hend : s.stream.length ≤ s.pc
  · simp only [if_pos hend]
    exact ⟨_, step_of_end hrun hend, rfl, rfl⟩
  by_cases hleft : s.stream.length - s.pc < 5
  · have hshort : s.streamLen < s.pc + 5 := (Nat.sub_lt_iff_lt_add' (Nat.le_of_not_le hend)).1 hleft
    simp only [if_neg hend, if_pos hleft]
    exact ⟨_, step_of_tail hrun (Nat.lt_of_not_le hend) hshort, rfl, rfl⟩
  have hlen : s.pc + 5 ≤ s.streamLen := show s.pc + 5 ≤ s.stream.length by omega
  have hbytes := State.five_le_length_drop_pc hlen
  simp only [if_neg hend, if_neg hleft]
  obtain ⟨r, hr⟩ : ∃ r, packRecord ((s.stream.drop s.pc).take 5) = r := ⟨_, rfl⟩
  cases hi : decodeRecord r with
  | none =>
    rw [decode_of_decodeRecord_none hbytes (hr ▸ hi)]
    exact ⟨_, step_of_decodeRecord_none hrun hlen hr hi, rfl, rfl⟩
  | some i =>
    rw [decode_of_decodeRecord_some hbytes (hr ▸ hi), step_of_decodeRecord_some hrun hlen hr hi]
    cases i with
    | loadConst x => exact ⟨_, exec_loadConst x _, hrun, rfl⟩
    | notAcc x => exact ⟨_, exec_notAcc x _, hrun, rfl⟩
    | loadMemory x =>
      by_cases hacc : 1024 ≤ s.acc.toNat
      · simp only [if_pos hacc]
        exact ⟨_, exec_loadMemory_of_invalid x hacc, rfl, rfl⟩
      · simp only [if_neg hacc]
        exact ⟨_, exec_loadMemory_of_valid x (Nat.lt_of_not_le hacc), hrun, rfl⟩
    | storeMemory x =>
      by_cases hx : 1024 ≤ x.toNat
      · simp only [if_pos hx]
        exact ⟨_, exec_storeMemory_of_invalid _ hx, rfl, rfl⟩
      · simp only [if_neg hx]
        exact ⟨_, exec_storeMemory_of_valid _ (Nat.lt_of_not_le hx), hrun, rfl⟩

/-- Settles O31: whichever check raises, only latches were written before fault entry. -/
theorem faultEntryWritesOnlyFaultFields : Obligations.FaultEntryWritesOnlyFaultFields := by
  constructor
  · intro s f info
    cases f <;> rfl
  · intro s t h hfault
    rcases step_fault_cases h hfault with ⟨-, -, rfl⟩ | ⟨r, b, -, rfl⟩ | ⟨r, a, -, rfl, -⟩
    · exact ⟨.truncatedStream, _, rfl⟩
    · exact ⟨.unknownOpcode, _, rfl⟩
    · exact ⟨.outOfBounds, _, rfl⟩

/-- Settles O32, by the three ways a step can enter FAULT. -/
theorem exactlyThreeRunFaults : Obligations.ExactlyThreeRunFaults := by
  refine ⟨⟨rfl, rfl, rfl, rfl⟩, fun s t h hfault => ?_⟩
  rcases step_fault_cases h hfault with ⟨hlt, hshort, rfl⟩ | ⟨r, b, hdecode, rfl⟩ | ⟨r, a, hinvalid, rfl, hdecode⟩
  · exact .inl ⟨rfl, hlt, hshort, State.raiseTruncated_faultInfo_toNat (by omega)⟩
  · exact .inr (.inl ⟨rfl, b, hdecode, State.raiseUnknown_faultInfo_toNat b⟩)
  · exact .inr (.inr ⟨rfl, hinvalid, hdecode.imp_right fun hstore => ⟨a, hstore, rfl⟩⟩)

end Sys2Proof.Machine
end

section
/-! Reset (R110, R111): the stream is all that it takes from the state before it. -/

namespace Sys2Proof.Machine

/-- A memory with no listed cell holds 0 in every cell (R13, R110). -/
@[simp] theorem Memory.read_nil (a : Nat) : Memory.read [] a = 0 := rfl

/-- Nothing but the stream survives a reset (R111). -/
theorem State.hostReset_eq_of_stream_eq {s t : State} (h : s.stream = t.stream) : s.hostReset = t.hostReset :=
  congrArg State.reset.supplyStream h

/-- The state right after reset is a fixed point of reset. -/
@[simp] theorem State.reset_hostReset : State.reset.hostReset = State.reset := rfl

/-- Settles O47: the values field by field, then that reset depends on the stream alone, then its fixed point. -/
theorem resetValues : Obligations.ResetValues := by
  refine ⟨fun s => ?_, fun s t hstream => ?_, ?_⟩
  · have hmem : ∀ a, a < 1024 → Memory.read s.hostReset.mem a = 0 := by
      intro a _
      rw [s.hostReset_mem, Memory.read_nil]
    exact ⟨s.hostReset_acc, hmem, s.hostReset_pc, s.hostReset_runState, s.hostReset_cause, s.hostReset_faultPc,
      s.hostReset_faultInfo, s.hostReset_stream⟩
  · rw [State.hostReset_eq_of_stream_eq hstream]
  · rw [State.reset_hostReset]

end Sys2Proof.Machine
end

section
/-! The encoder and the decoder as each other's inverse (R45 to R53): the operand is the concatenation of its four bytes,
and any five bytes are a record of the map or are rejected under their first byte. -/

namespace Sys2Proof

variable {b b1 b2 b3 b4 : Byte} {bytes : List Byte} {i : Instr}

/-! ## The bytes of an operand -/

/-- An operand is its four bytes side by side, byte 1 of the record lowest (R53). -/
theorem operand_eq_append_bytes (x : Operand) :
    ((x.extractLsb' 24 8 ++ x.extractLsb' 16 8) ++ x.extractLsb' 8 8) ++ x.extractLsb' 0 8 = x := by
  rw [BitVec.extractLsb'_append_extractLsb'_eq_extractLsb' (show 24 = 16 + 8 from rfl),
    BitVec.extractLsb'_append_extractLsb'_eq_extractLsb' (show 16 = 8 + 8 from rfl),
    BitVec.extractLsb'_append_extractLsb'_eq_extractLsb' (show 8 = 0 + 8 from rfl)]
  exact BitVec.extractLsb'_eq_self

/-- The record of an operand that is given by its bytes holds these bytes (R53). -/
theorem encodeRecord_append_bytes (op : Opcode) (b1 b2 b3 b4 : Byte) :
    encodeRecord op (((b4 ++ b3) ++ b2) ++ b1) = [opcodeByte op, b1, b2, b3, b4] := by
  have h1 : (((b4 ++ b3) ++ b2) ++ b1).extractLsb' 0 8 = b1 := BitVec.extractLsb'_append_eq_right
  have h2 : (((b4 ++ b3) ++ b2) ++ b1).extractLsb' 8 8 = b2 := by
    rw [BitVec.extractLsb'_append_eq_of_le (by decide)]
    exact BitVec.extractLsb'_append_eq_right
  have h3 : (((b4 ++ b3) ++ b2) ++ b1).extractLsb' 16 8 = b3 := by
    rw [BitVec.extractLsb'_append_eq_of_le (by decide), BitVec.extractLsb'_append_eq_of_le (by decide)]
    exact BitVec.extractLsb'_append_eq_right
  have h4 : (((b4 ++ b3) ++ b2) ++ b1).extractLsb' 24 8 = b4 := by
    rw [BitVec.extractLsb'_append_eq_of_le (by decide), BitVec.extractLsb'_append_eq_of_le (by decide)]
    exact BitVec.extractLsb'_append_eq_left
  rw [encodeRecord, h1, h2, h3, h4]

/-! ## What the decoder says of five bytes and of fewer -/

/-- Five or more bytes begin with a record. -/
theorem exists_record_of_five_le_length (hlen : 5 ≤ bytes.length) :
    ∃ b b1 b2 b3 b4 rest, bytes = b :: b1 :: b2 :: b3 :: b4 :: rest := by
  match bytes, hlen with
  | b :: b1 :: b2 :: b3 :: b4 :: rest, _ => exact ⟨b, b1, b2, b3, b4, rest, rfl⟩

/-- A record whose first byte is in the map is that instruction, any other is rejected under its first byte. -/
theorem decode_record_cases (b b1 b2 b3 b4 : Byte) (rest : List Byte) :
    (∃ op, b = opcodeByte op ∧
      decode (b :: b1 :: b2 :: b3 :: b4 :: rest) = .ok (op.instr (((b4 ++ b3) ++ b2) ++ b1))) ∨
    ((∀ op, b ≠ opcodeByte op) ∧ decode (b :: b1 :: b2 :: b3 :: b4 :: rest) = .unknownOpcode b) := by
  by_cases h : ∃ op, b = opcodeByte op
  · obtain ⟨op, hop⟩ := h
    exact .inl ⟨op, hop, decode_of_opcodeByte hop⟩
  · rw [not_exists] at h
    exact .inr ⟨h, decode_of_illegal h⟩

/-- The decoder answers `truncated` exactly for fewer bytes than a record, with their number (R67). -/
theorem decode_eq_truncated_iff {n : Nat} : decode bytes = .truncated n ↔ bytes.length < 5 ∧ n = bytes.length := by
  constructor
  · intro h
    by_cases hlen : bytes.length < 5
    · rw [Machine.decode_of_short hlen] at h
      exact ⟨hlen, (Decoded.truncated.inj h).symm⟩
    · obtain ⟨b, b1, b2, b3, b4, rest, rfl⟩ := exists_record_of_five_le_length (Nat.le_of_not_lt hlen)
      rcases decode_record_cases b b1 b2 b3 b4 rest with ⟨op, -, hok⟩ | ⟨-, hunknown⟩
      · simp [hok] at h
      · simp [hunknown] at h
  · rintro ⟨hlen, rfl⟩
    exact Machine.decode_of_short hlen

/-- The decoder answers an instruction exactly for a whole record whose word decodes to it (R69 to R71). -/
theorem decode_eq_ok_iff :
    decode bytes = .ok i ↔ 5 ≤ bytes.length ∧ decodeRecord (packRecord (bytes.take 5)) = some i := by
  constructor
  · intro h
    have hlen : 5 ≤ bytes.length := by
      by_contra hshort
      simp [Machine.decode_of_short (Nat.lt_of_not_le hshort)] at h
    cases hi : decodeRecord (packRecord (bytes.take 5)) with
    | none => simp [Machine.decode_of_decodeRecord_none hlen hi] at h
    | some j =>
      rw [Machine.decode_of_decodeRecord_some hlen hi] at h
      exact ⟨hlen, congrArg some (Decoded.ok.inj h)⟩
  · rintro ⟨hlen, hi⟩
    exact Machine.decode_of_decodeRecord_some hlen hi

/-- The decoder answers `unknownOpcode` exactly for a whole record whose first byte is outside the map (R50). -/
theorem decode_eq_unknownOpcode_iff :
    decode bytes = .unknownOpcode b ↔ 5 ≤ bytes.length ∧ bytes.head? = some b ∧ ∀ op, b ≠ opcodeByte op := by
  by_cases hlen : 5 ≤ bytes.length
  · obtain ⟨b0, b1, b2, b3, b4, rest, rfl⟩ := exists_record_of_five_le_length hlen
    rcases decode_record_cases b0 b1 b2 b3 b4 rest with ⟨op, rfl, hok⟩ | ⟨hillegal, hunknown⟩
    · rw [hok]
      simp only [reduceCtorEq, false_iff]
      rintro ⟨-, hhead, hillegal⟩
      cases hhead
      exact hillegal op rfl
    · rw [hunknown, Decoded.unknownOpcode.injEq, List.head?_cons, Option.some.injEq]
      constructor
      · rintro rfl
        exact ⟨hlen, rfl, hillegal⟩
      · rintro ⟨-, hhead, -⟩
        exact hhead
  · rw [Machine.decode_of_short (Nat.lt_of_not_le hlen)]
    simp [hlen]

/-- A byte is outside the map when it is none of the four bytes of R48. -/
theorem ne_opcodeByte_iff : (∀ op, b ≠ opcodeByte op) ↔ b ≠ 0x3E ∧ b ≠ 0x58 ∧ b ≠ 0x39 ∧ b ≠ 0x89 := by
  constructor
  · intro h
    exact ⟨h .loadConst, h .loadMemory, h .storeMemory, h .notAcc⟩
  · rintro ⟨hconst, hload, hstore, hnot⟩ (_ | _ | _ | _)
    exacts [hconst, hload, hstore, hnot]

/-! ## The select lines -/

theorem selLoadConst_iff : selLoadConst b = true ↔ b = 0x3E := beq_iff_eq
theorem selLoadMemory_iff : selLoadMemory b = true ↔ b = 0x58 := beq_iff_eq
theorem selStoreMemory_iff : selStoreMemory b = true ↔ b = 0x39 := beq_iff_eq
theorem selNot_iff : selNot b = true ↔ b = 0x89 := beq_iff_eq

/-- The `illegal` line is high exactly for the bytes outside the map (R50, R70). -/
theorem illegal_iff : illegal b = true ↔ ∀ op, b ≠ opcodeByte op := by
  rw [← not_iff_not, Bool.not_eq_true, Machine.illegal_eq_false_iff]
  simp [eq_comm]

/-- On a byte outside the map only the `illegal` line is high. -/
theorem selectLines_count_of_illegal (h : illegal b = true) :
    [selLoadConst b, selLoadMemory b, selStoreMemory b, selNot b, illegal b].count true = 1 := by
  obtain ⟨hconst, hload, hstore, hnot⟩ := ne_opcodeByte_iff.1 (illegal_iff.1 h)
  rw [Bool.eq_false_iff.2 (mt selLoadConst_iff.1 hconst), Bool.eq_false_iff.2 (mt selLoadMemory_iff.1 hload),
    Bool.eq_false_iff.2 (mt selStoreMemory_iff.1 hstore), Bool.eq_false_iff.2 (mt selNot_iff.1 hnot), h]
  rfl

/-! ## The obligations -/

/-- Settles O3: the record of an instruction begins with its opcode byte, and the four bytes after it are its operand. -/
theorem decodeEncode : Obligations.DecodeEncode := by
  intro i rest
  have hrecord : decode (encode i ++ rest) = .ok (i.opcode.instr (((i.operand.extractLsb' 24 8 ++
      i.operand.extractLsb' 16 8) ++ i.operand.extractLsb' 8 8) ++ i.operand.extractLsb' 0 8)) :=
    decode_of_opcodeByte rfl
  rw [hrecord, operand_eq_append_bytes, Instr.opcode_instr_operand]

/-- Settles O4: the first of five bytes that decode is an opcode byte, and the encoder gives the other four back. -/
theorem encodeDecode : Obligations.EncodeDecode := by
  intro bytes i hlen hdecode
  obtain ⟨b, b1, b2, b3, b4, rest, rfl⟩ := exists_record_of_five_le_length hlen.ge
  obtain rfl : rest = [] := List.length_eq_zero_iff.1 (by simpa using hlen)
  rcases decode_record_cases b b1 b2 b3 b4 [] with ⟨op, rfl, hok⟩ | ⟨-, hunknown⟩
  · rw [hok] at hdecode
    cases hdecode
    rw [encode, Opcode.instr_opcode, Opcode.instr_operand, encodeRecord_append_bytes]
  · rw [hunknown] at hdecode
    cases hdecode

/-- Settles O5, by the two rejections of the decoder. -/
theorem decodeRejectsExactly : Obligations.DecodeRejectsExactly := by
  refine ⟨fun bytes n => decode_eq_truncated_iff, fun bytes b => ?_⟩
  rw [decode_eq_unknownOpcode_iff, ne_opcodeByte_iff]

/-- Settles O2, by the definition of the encoder. -/
theorem encodeGivesTheRecordBytes : Obligations.EncodeGivesTheRecordBytes := fun _ => ⟨rfl, rfl, rfl, rfl⟩

/-- Settles O7: a byte of the map is one of four, and on any other byte only the `illegal` line is high. -/
theorem exactlyOneSelectLine : Obligations.ExactlyOneSelectLine := by
  intro b
  refine ⟨selLoadConst_iff, selLoadMemory_iff, selStoreMemory_iff, selNot_iff, illegal_iff.trans ne_opcodeByte_iff, ?_⟩
  cases h : illegal b with
  | true => exact h ▸ selectLines_count_of_illegal h
  | false =>
    obtain ⟨op, rfl⟩ := Machine.illegal_eq_false_iff.1 h
    cases op <;> rfl

/-- Settles O8: each of these records is the encoding of its instruction. -/
theorem workedEncodingsDecode : Obligations.WorkedEncodingsDecode :=
  ⟨decodeEncode (.loadConst 38) [], decodeEncode (.loadMemory 0) [], decodeEncode (.storeMemory 112) [],
    decodeEncode (.notAcc 689) [], decodeEncode (.loadConst 0x12345678) [], decodeEncode (.loadMemory 0xFFFFFFFF) [],
    decodeEncode (.storeMemory 1023) [], decodeEncode (.notAcc 0x80000001) []⟩

end Sys2Proof
end

section
/-! The step by what stands at PC. A step that answers is decided by the decoder: an instruction runs, anything else
finishes the run or enters FAULT. What ACC, MEM and the latches hold after a step is read off here, for each instruction once. -/

namespace Sys2Proof.Machine

variable {s t : State} {i : Instr}

/-! ## The meanings, inverted -/

theorem exec_loadMemory_cases {x : Operand} (h : exec (.loadMemory x) s = .next t) :
    (s.acc.toNat < 1024 ∧ t = (s.setMar s.acc).loadCell.advance) ∨
    (1024 ≤ s.acc.toNat ∧ t = (s.setMar s.acc).raise .outOfBounds s.acc) :=
  State.checkedAccess_cases (s := s.setMar s.acc) h

theorem exec_storeMemory_cases {x : Operand} (h : exec (.storeMemory x) s = .next t) :
    (x.toNat < 1024 ∧ t = (s.setMar x).storeCell.advance) ∨
    (1024 ≤ x.toNat ∧ t = (s.setMar x).raise .outOfBounds x) :=
  State.checkedAccess_cases (s := s.setMar x) ((exec_storeMemory x s).symm.trans h)

/-- No instruction writes IR: it holds the record while the record executes (R24). -/
theorem exec_ir (h : exec i s = .next t) : t.ir = s.ir := by
  cases i with
  | loadConst x => cases h; rfl
  | notAcc x => cases h; rfl
  | loadMemory x => rcases exec_loadMemory_cases h with ⟨-, rfl⟩ | ⟨-, rfl⟩ <;> rfl
  | storeMemory x => rcases exec_storeMemory_cases h with ⟨-, rfl⟩ | ⟨-, rfl⟩ <;> rfl

/-! ## The step, by what the decoder says of the bytes at PC -/

/-- At an instruction the step latches the record and runs the instruction (R68, R71). -/
theorem step_of_decode_ok (hrun : s.runState = .running) (hi : decode (s.stream.drop s.pc) = .ok i) :
    step s = exec i (s.setIr (packRecord ((s.stream.drop s.pc).take 5))) := by
  obtain ⟨hlen, hrecord⟩ := decode_eq_ok_iff.1 hi
  rw [State.length_drop_pc] at hlen
  exact step_of_decodeRecord_some hrun (by omega) rfl hrecord

/-- Everything a step that answers can have done, by what the decoder says of the bytes at PC. -/
theorem step_decode_cases (h : step s = .next t) :
    (∃ left, decode (s.stream.drop s.pc) = .truncated left ∧ s.streamLen < s.pc + 5 ∧
      (t = s.finish ∨ t = s.raiseTruncated (s.streamLen - s.pc))) ∨
    (∃ i, decode (s.stream.drop s.pc) = .ok i ∧ s.pc + 5 ≤ s.streamLen ∧
      exec i (s.setIr (packRecord ((s.stream.drop s.pc).take 5))) = .next t) ∨
    (∃ b, decode (s.stream.drop s.pc) = .unknownOpcode b ∧ s.pc + 5 ≤ s.streamLen ∧
      t = (s.setIr (packRecord ((s.stream.drop s.pc).take 5))).raiseUnknown b) := by
  have htruncated : s.streamLen < s.pc + 5 → ∃ left, decode (s.stream.drop s.pc) = .truncated left := by
    intro hshort
    have hlen := s.length_drop_pc
    exact ⟨_, decode_of_short (by omega)⟩
  obtain ⟨-, ⟨hend, ht⟩ | ⟨-, hshort, ht⟩ | ⟨hlen, r, rfl, ⟨i, hi, hexec⟩ | ⟨hillegal, ht⟩⟩⟩ := step_cases h
  · obtain ⟨left, hleft⟩ := htruncated (by omega)
    exact .inl ⟨left, hleft, by omega, .inl ht⟩
  · obtain ⟨left, hleft⟩ := htruncated hshort
    exact .inl ⟨left, hleft, hshort, .inr ht⟩
  · exact .inr (.inl ⟨i, decode_of_decodeRecord_some (State.five_le_length_drop_pc hlen) hi, hlen, hexec⟩)
  · exact .inr (.inr ⟨_, decode_of_decodeRecord_none (State.five_le_length_drop_pc hlen) hillegal, hlen, ht⟩)

/-! ## The bytes of the latched record -/

/-- Byte `k` of a record's word is byte `k` of the record (R24, R45). -/
theorem packRecord_extract_byte (b0 b1 b2 b3 b4 : Byte) {k : Nat} (hk : k < 5) :
    [b0, b1, b2, b3, b4][k]? = some ((packRecord [b0, b1, b2, b3, b4]).extractLsb' (8 * k) 8) := by
  have hoperand (j : Nat) : (packRecord [b0, b1, b2, b3, b4]).extractLsb' (8 * j + 8) 8 =
      (((b4 ++ b3) ++ b2) ++ b1).extractLsb' (8 * j) 8 := by
    rw [packRecord_five, BitVec.extractLsb'_append_eq_of_le (by omega)]
    rfl
  have hrecord := encodeRecord_append_bytes .loadConst b1 b2 b3 b4
  simp only [encodeRecord, List.cons.injEq, true_and, and_true] at hrecord
  obtain ⟨h1, h2, h3, h4⟩ := hrecord
  match k, hk with
  | 0, _ => exact congrArg some (opcodeField_packRecord b0 b1 b2 b3 b4).symm
  | 1, _ => exact congrArg some ((hoperand 0).trans h1).symm
  | 2, _ => exact congrArg some ((hoperand 1).trans h2).symm
  | 3, _ => exact congrArg some ((hoperand 2).trans h3).symm
  | 4, _ => exact congrArg some ((hoperand 3).trans h4).symm

/-- The word of the record at PC holds the five bytes of the stream there (R68). -/
theorem State.stream_getElem?_of_record (hlen : s.pc + 5 ≤ s.streamLen) {k : Nat} (hk : k < 5) :
    s.stream[s.pc + k]? = some ((packRecord ((s.stream.drop s.pc).take 5)).extractLsb' (8 * k) 8) := by
  obtain ⟨b0, b1, b2, b3, b4, rest, hbytes⟩ := exists_record_of_five_le_length (State.five_le_length_drop_pc hlen)
  have htake : (s.stream.drop s.pc).take 5 = [b0, b1, b2, b3, b4] := by rw [hbytes]; rfl
  rw [htake, ← packRecord_extract_byte b0 b1 b2 b3 b4 hk, ← htake, List.getElem?_take_of_lt hk, List.getElem?_drop]

/-! ## The obligations -/

/-- Settles O21, by the step at an instruction. -/
theorem stepRunsDecoded : Obligations.StepRunsDecoded := fun _ _ => step_of_decode_ok

/-- Settles O22: only the fetch of a complete record writes IR, and nothing that the record does writes it again. -/
theorem fetchLatchesRecord : Obligations.FetchLatchesRecord := by
  intro s t h
  have hlen : s.streamLen = s.stream.length := rfl
  rcases step_decode_cases h with ⟨left, -, hshort, rfl | rfl⟩ | ⟨i, -, hfits, hexec⟩ | ⟨b, -, hfits, rfl⟩
  · exact ⟨fun hfits => by omega, fun _ => rfl⟩
  · exact ⟨fun hfits => by omega, fun _ => rfl⟩
  · refine ⟨fun _ k hk => ?_, fun hshort => by omega⟩
    rw [exec_ir hexec]
    exact State.stream_getElem?_of_record hfits hk
  · exact ⟨fun _ k hk => State.stream_getElem?_of_record hfits hk, fun hshort => by omega⟩

/-- Settles O23, by the instruction at PC: MAR and MDR are written by the two checked accesses only. -/
theorem marMdrFollowTheAccess : Obligations.MarMdrFollowTheAccess := by
  intro s t h
  rcases step_decode_cases h with ⟨left, hd, -, rfl | rfl⟩ | ⟨i, hd, -, hexec⟩ | ⟨b, hd, -, rfl⟩
  · rw [hd]; exact ⟨rfl, rfl⟩
  · rw [hd]; exact ⟨rfl, rfl⟩
  · rw [hd]
    cases i with
    | loadConst x => cases hexec; exact ⟨rfl, rfl⟩
    | notAcc x => cases hexec; exact ⟨rfl, rfl⟩
    | loadMemory x =>
      rcases exec_loadMemory_cases hexec with ⟨hvalid, rfl⟩ | ⟨hinvalid, rfl⟩
      · exact ⟨rfl, (if_pos hvalid).symm⟩
      · exact ⟨rfl, (if_neg (Nat.not_lt.2 hinvalid)).symm⟩
    | storeMemory x =>
      rcases exec_storeMemory_cases hexec with ⟨hvalid, rfl⟩ | ⟨hinvalid, rfl⟩
      · exact ⟨rfl, (if_pos hvalid).symm⟩
      · exact ⟨rfl, (if_neg (Nat.not_lt.2 hinvalid)).symm⟩
  · rw [hd]; exact ⟨rfl, rfl⟩

/-- Settles O34, by the instruction at PC. -/
theorem accWrittenOnlyByItsThreeInstructions : Obligations.AccWrittenOnlyByItsThreeInstructions := by
  intro s t h
  rcases step_decode_cases h with ⟨left, hd, -, rfl | rfl⟩ | ⟨i, hd, -, hexec⟩ | ⟨b, hd, -, rfl⟩
  · rw [hd]; rfl
  · rw [hd]; rfl
  · rw [hd]
    cases i with
    | loadConst x => cases hexec; exact immediate_eq x
    | notAcc x => cases hexec; rfl
    | loadMemory x =>
      rcases exec_loadMemory_cases hexec with ⟨hvalid, rfl⟩ | ⟨hinvalid, rfl⟩
      · exact (if_pos hvalid).symm
      · exact (if_neg (Nat.not_lt.2 hinvalid)).symm
    | storeMemory x => rcases exec_storeMemory_cases hexec with ⟨-, rfl⟩ | ⟨-, rfl⟩ <;> rfl
  · rw [hd]; rfl

/-- The value that a step stores is ACC (R82). -/
theorem State.storeMade_value {a : Nat} {v : Word} (h : s.storeMade = some (a, v)) : v = s.acc := by
  unfold State.storeMade at h
  split at h
  · split at h
    · cases h; rfl
    · cases h
  · cases h

/-- Settles O35: a step applies the store that it makes, which is one write. -/
theorem memWrittenOnlyByStoreMemory : Obligations.MemWrittenOnlyByStoreMemory := by
  intro s t h hwf
  have hmem := step_mem h
  cases hstore : s.storeMade with
  | none =>
    rw [hstore] at hmem
    exact hmem
  | some store =>
    obtain ⟨a, v⟩ := store
    rw [hstore] at hmem
    refine ⟨State.storeMade_lt hstore, State.storeMade_value hstore, fun c => ?_⟩
    rw [hmem]
    exact Memory.read_write a v c hwf

end Sys2Proof.Machine
end

section
/-! The meanings as whole next states (R80 to R85): completion, frame, and short sequences of instructions. -/

namespace Sys2Proof.Machine

variable {m : Memory} {a : Nat} {v : Word}

/-- The written cell holds the value (R33). -/
theorem Memory.read_write_self (hwf : Memory.wf m = true) : Memory.read (Memory.write m a v) a = v :=
  (Memory.read_write a v a hwf).trans (if_pos rfl)

/-- Every other cell is as it was (R33). -/
theorem Memory.read_write_of_ne (hwf : Memory.wf m = true) {c : Nat} (hc : c ≠ a) :
    Memory.read (Memory.write m a v) c = Memory.read m c :=
  (Memory.read_write a v c hwf).trans (if_neg hc)

/-- Settles O13: LOAD_CONST has one outcome. -/
theorem execLoadConstCompletes : Obligations.ExecLoadConstCompletes := exec_loadConst

/-- Settles O14, by the address check on ACC. -/
theorem execLoadMemoryCompletes : Obligations.ExecLoadMemoryCompletes := fun x _ hvalid =>
  exec_loadMemory_of_valid x hvalid

/-- Settles O15, by the address check on the operand; the cells are those of the one write. -/
theorem execStoreMemoryCompletes : Obligations.ExecStoreMemoryCompletes := by
  intro x s hvalid hwf
  rw [absoluteAddress_eq] at hvalid ⊢
  exact ⟨_, exec_storeMemory_of_valid s hvalid, rfl, Memory.wfFrom_write s.acc hwf x.toNat.zero_le hvalid,
    Memory.read_write_self hwf, fun _ => Memory.read_write_of_ne hwf⟩

/-- Settles O16: NOT has one outcome. -/
theorem execNotCompletes : Obligations.ExecNotCompletes := exec_notAcc

/-- Settles O18: any operand decodes, and the two meanings do not mention theirs. -/
theorem operandIgnoredByLoadMemoryAndNot : Obligations.OperandIgnoredByLoadMemoryAndNot := by
  intro x y s
  exact ⟨decodeEncode (.loadMemory x) [], decodeEncode (.notAcc x) [], rfl, rfl⟩

/-- Settles O19: complement is an involution without a fixed point. -/
theorem notTwiceRestoresAcc : Obligations.NotTwiceRestoresAcc := by
  intro x y s
  exact ⟨_, _, exec_notAcc x s, (BitVec.ne_not_self (by decide)).symm, exec_notAcc y _, BitVec.not_not, rfl, rfl⟩

/-- Settles O20: the three instructions complete, and the load reads the cell that the store wrote. -/
theorem loadAfterStoreNeedsNoGap : Obligations.LoadAfterStoreNeedsNoGap := by
  intro x y s hvalid hwf
  exact ⟨_, _, _, exec_storeMemory_of_valid s hvalid, exec_loadConst x _, rfl, exec_loadMemory_of_valid y hvalid,
    Memory.read_write_self hwf, rfl⟩

end Sys2Proof.Machine
end

section
/-! The host's fetch word (log entry 16): the bytes placed at PC are those that the next step decodes. -/

namespace Sys2Proof.Machine

variable {bytes : List Byte} {i : Instr}

/-- The decoder looks at the first record only: what follows it does not matter. -/
theorem decode_append_of_ok (rest : List Byte) (h : decode bytes = .ok i) : decode (bytes ++ rest) = .ok i := by
  obtain ⟨hlen, hrecord⟩ := decode_eq_ok_iff.1 h
  refine decode_eq_ok_iff.2 ⟨by rw [List.length_append]; omega, ?_⟩
  rw [List.take_append_of_le_length hlen]
  exact hrecord

theorem decodeTableWord_eq_some_iff {nbits w : Nat} :
    decodeTableWord nbits w = some i ↔ decode (tableWordBytes nbits w) = .ok i := by
  rw [decodeTableWord]
  cases decode (tableWordBytes nbits w) <;> simp

/-- The placed bytes stand at PC, whether the stream reached PC or not. -/
theorem State.placeAtPc_stream_drop (s : State) (bytes : List Byte) :
    (s.placeAtPc bytes).stream.drop s.pc = bytes ++ s.stream.drop (s.pc + bytes.length) := by
  have hbefore : ((s.stream ++ List.replicate (s.pc - s.streamLen) 0).take s.pc).length = s.pc := by
    have hlen : s.streamLen = s.stream.length := rfl
    simp only [List.length_take, List.length_append, List.length_replicate]
    omega
  rw [State.placeAtPc, List.append_assoc, List.drop_left' hbefore]

/-- Settles O24: the placed word is decoded at PC, whatever follows it in the stream. -/
theorem fetchWordRunsNext : Obligations.FetchWordRunsNext := by
  intro s nbits w i hword
  have hbytes := s.placeAtPc_stream_drop (tableWordBytes nbits w)
  have hdecode : decode ((s.withFetchWord nbits w).stream.drop s.pc) = .ok i :=
    hbytes ▸ decode_append_of_ok _ (decodeTableWord_eq_some_iff.1 hword)
  have hrecord : ((s.withFetchWord nbits w).stream.drop s.pc).take 5 = tableWordBytes nbits w :=
    (congrArg (List.take 5) hbytes).trans (List.take_left' rfl)
  refine ⟨?_, rfl, rfl, rfl⟩
  rw [← hrecord]
  exact step_of_decode_ok rfl hdecode

end Sys2Proof.Machine
end

section
/-! The canonical form of data memory (log entry 5): a memory is determined by what its cells read as. -/

namespace Sys2Proof.Machine

/-- The first listed cell does not read as 0. -/
theorem Memory.read_head_ne_zero {low a : Nat} {v : Word} {rest : Memory}
    (h : Memory.wfFrom low ((a, v) :: rest) = true) : Memory.read ((a, v) :: rest) a ≠ 0#32 := by
  obtain ⟨-, -, hv, -⟩ := Memory.wfFrom_cons.1 h
  simpa [Memory.read] using hv

/-- Two canonical memories that read alike begin with the same cell. -/
theorem Memory.head_le_of_read_eq {low low' a b : Nat} {v w : Word} {m m' : Memory}
    (h : Memory.wfFrom low ((a, v) :: m) = true) (h' : Memory.wfFrom low' ((b, w) :: m') = true)
    (hread : ∀ c, Memory.read ((a, v) :: m) c = Memory.read ((b, w) :: m') c) : b ≤ a := by
  by_contra hlt
  obtain ⟨-, hb, hw, hm'⟩ := Memory.wfFrom_cons.1 h'
  have hfromB : Memory.wfFrom b ((b, w) :: m') = true := Memory.wfFrom_cons.2 ⟨le_rfl, hb, hw, hm'⟩
  exact Memory.read_head_ne_zero h ((hread a).trans (Memory.read_eq_zero_of_lt hfromB (Nat.lt_of_not_le hlt)))

/-- The tails of two canonical memories that begin with the same cell and read alike read alike too. -/
theorem Memory.read_tail_eq {low a : Nat} {v w : Word} {m m' : Memory} (h : Memory.wfFrom low ((a, v) :: m) = true)
    (h' : Memory.wfFrom low ((a, w) :: m') = true)
    (hread : ∀ c, Memory.read ((a, v) :: m) c = Memory.read ((a, w) :: m') c) (c : Nat) :
    Memory.read m c = Memory.read m' c := by
  obtain ⟨-, -, -, hm⟩ := Memory.wfFrom_cons.1 h
  obtain ⟨-, -, -, hm'⟩ := Memory.wfFrom_cons.1 h'
  by_cases hc : c = a
  · have hlt : c < a + 1 := by omega
    rw [Memory.read_eq_zero_of_lt hm hlt, Memory.read_eq_zero_of_lt hm' hlt]
  · simpa [Memory.read, hc] using hread c

/-- Canonical memories that read alike at every index are equal. -/
theorem Memory.eq_of_read_eq {low : Nat} {m m' : Memory} (h : Memory.wfFrom low m = true)
    (h' : Memory.wfFrom low m' = true) (hread : ∀ c, Memory.read m c = Memory.read m' c) : m = m' := by
  induction m generalizing low m' with
  | nil =>
    cases m' with
    | nil => rfl
    | cons p rest' => exact absurd (hread p.1).symm (Memory.read_head_ne_zero h')
  | cons p rest ih =>
    obtain ⟨a, v⟩ := p
    cases m' with
    | nil => exact absurd (hread a) (Memory.read_head_ne_zero h)
    | cons q rest' =>
      obtain ⟨b, w⟩ := q
      obtain rfl : a = b :=
        le_antisymm (Memory.head_le_of_read_eq h' h fun c => (hread c).symm) (Memory.head_le_of_read_eq h h' hread)
      obtain rfl : v = w := by simpa [Memory.read] using hread a
      obtain ⟨-, -, -, hrest⟩ := Memory.wfFrom_cons.1 h
      obtain ⟨-, -, -, hrest'⟩ := Memory.wfFrom_cons.1 h'
      rw [ih hrest hrest' (Memory.read_tail_eq h h' hread)]

/-- Settles O46: outside the existing cells both memories read as 0, so that they read alike everywhere. -/
theorem canonicalMemoriesAreEqual : Obligations.CanonicalMemoriesAreEqual := by
  intro m m' h h' hread
  refine Memory.eq_of_read_eq (low := 0) h h' fun c => ?_
  by_cases hc : c < 1024
  · exact hread c hc
  · have hge : Config.memSize ≤ c := Nat.le_of_not_lt hc
    rw [Memory.read_eq_zero_of_memSize_le h hge, Memory.read_eq_zero_of_memSize_le h' hge]

end Sys2Proof.Machine
end

section
/-! The STATUS word (R18 to R20), the debug outputs (R104) and the names of the stuck steps (log entry 7). -/

namespace Sys2Proof.Machine

variable {s : State}

theorem RunState.code_toNat (r : RunState) :
    r.code.toNat = match r with | .running => 0 | .done => 1 | .fault => 2 := by
  cases r <;> rfl

theorem Cause.code_toNat (c : Cause) :
    c.code.toNat = match c with | .none => 0 | .truncatedStream => 1 | .unknownOpcode => 2 | .outOfBounds => 3 := by
  cases c <;> rfl

/-- The STATE value 3 is never produced (R19). -/
theorem RunState.code_ne_three (r : RunState) : r.code ≠ 3#2 := by cases r <;> decide

/-- The two fields of STATUS, as digits in base 4 (R18). -/
theorem State.status_toNat (s : State) : s.status.toNat = s.runState.code.toNat + 4 * s.cause.code.toNat := by
  have hstate := s.runState.code.isLt
  rw [State.status, BitVec.toNat_append, ← Nat.shiftLeft_add_eq_or_of_lt hstate, BitVec.toNat_append, BitVec.toNat_ofNat,
    Nat.zero_mod, Nat.zero_shiftLeft, Nat.zero_or, Nat.shiftLeft_eq]
  omega

/-- No meaning reads STATE or CAUSE: what it does to ACC, MEM and PC does not depend on them (R18). -/
theorem exec_of_status (i : Instr) (s : State) (r : RunState) (c : Cause) :
    ∃ t u, exec i s = .next t ∧ exec i { s with runState := r, cause := c } = .next u ∧
      u.acc = t.acc ∧ u.mem = t.mem ∧ u.pc = t.pc := by
  cases i with
  | loadConst x => exact ⟨_, _, exec_loadConst x s, exec_loadConst x _, rfl, rfl, rfl⟩
  | notAcc x => exact ⟨_, _, exec_notAcc x s, exec_notAcc x _, rfl, rfl, rfl⟩
  | loadMemory x =>
    rcases Nat.lt_or_ge s.acc.toNat 1024 with hvalid | hinvalid
    · exact ⟨_, _, exec_loadMemory_of_valid x hvalid, exec_loadMemory_of_valid x hvalid, rfl, rfl, rfl⟩
    · exact ⟨_, _, exec_loadMemory_of_invalid x hinvalid, exec_loadMemory_of_invalid x hinvalid, rfl, rfl, rfl⟩
  | storeMemory x =>
    rcases Nat.lt_or_ge x.toNat 1024 with hvalid | hinvalid
    · exact ⟨_, _, exec_storeMemory_of_valid s hvalid, exec_storeMemory_of_valid _ hvalid, rfl, rfl, rfl⟩
    · exact ⟨_, _, exec_storeMemory_of_invalid s hinvalid, exec_storeMemory_of_invalid _ hinvalid, rfl, rfl, rfl⟩

/-- Settles O51, by the fields of the word, and by the meanings, which do not read it. -/
theorem statusWordLayout : Obligations.StatusWordLayout := by
  refine ⟨fun s => ⟨?_, ?_, ?_⟩, rfl, fun i s t r c hexec => ?_⟩
  · exact s.status_toNat.trans (congrArg₂ (· + 4 * ·) s.runState.code_toNat s.cause.code_toNat)
  · rw [State.status, BitVec.extractLsb'_append_eq_of_le (by decide), BitVec.extractLsb'_append_eq_of_le (by decide)]
    exact BitVec.extractLsb'_eq_self
  · rw [State.status, BitVec.extractLsb'_append_eq_right]
    exact s.runState.code_ne_three
  · obtain ⟨t', u, ht', hu, hacc, hmem, hpc⟩ := exec_of_status i s r c
    rw [hexec] at ht'
    cases ht'
    exact ⟨u, hu, hacc, hmem, hpc⟩

/-- Settles O50: the debug read answers a cell that exists, and each output is the field of its name. -/
theorem debugPortsShowTheState : Obligations.DebugPortsShowTheState := by
  intro s a
  exact ⟨fun ha => if_pos ha, rfl, rfl, rfl, rfl, rfl⟩

theorem step_of_done (h : s.runState = .done) : step s = .fault .runOver := by simp only [step, h]

theorem step_of_fault (h : s.runState = .fault) : step s = .fault .halted := by simp only [step, h]

/-- Settles O55, by STATE. -/
theorem stuckStepsAreNamed : Obligations.StuckStepsAreNamed := by
  intro s
  cases hs : s.runState with
  | running =>
    obtain ⟨t, ht⟩ := exists_step_of_running hs
    simp [ht]
  | done => simp [step_of_done hs]
  | fault => simp [step_of_fault hs]

end Sys2Proof.Machine
end

section
/-! The assembler on whole programs (R54 to R56): it works record by record, and the first rejected record is its answer. -/

namespace Sys2Proof

variable {r : SymRecord} {program : List SymRecord} {instrs : List Instr} {e : AsmError}

/-- A command name resolves exactly when it is one of the four mnemonics (R55). -/
theorem resolveCommand_eq_none_iff {command : String} :
    resolveCommand command = none ↔ command ∉ ["LOAD_CONST", "LOAD_MEMORY", "STORE_MEMORY", "NOT"] := by
  unfold resolveCommand
  split_ifs <;> simp_all

/-- The assembler accepts exactly the well-formed records. -/
theorem assembleRecord_isOk_iff : (∃ i, assembleRecord r = .ok i) ↔ r.wf = true := by
  have hwf : r.wf = true ↔
      r.command ∈ ["LOAD_CONST", "LOAD_MEMORY", "STORE_MEMORY", "NOT"] ∧ 0 ≤ r.operand.getD 0 := by
    simp [SymRecord.wf, commandKnown]
  rw [hwf]
  cases hop : resolveCommand r.command with
  | none => simp [assembleRecord, hop, resolveCommand_eq_none_iff.1 hop]
  | some op =>
    have hknown : r.command ∈ ["LOAD_CONST", "LOAD_MEMORY", "STORE_MEMORY", "NOT"] := by
      by_contra hunknown
      simp [resolveCommand_eq_none_iff.2 hunknown] at hop
    rcases lt_or_ge (r.operand.getD 0) 0 with hneg | hnonneg
    · simp [assembleRecord_of_neg hop hneg, hneg]
    · simp [assembleRecord_of_nonneg hop hnonneg, hknown, hnonneg]

/-- An unknown command is reported under its own name, and only for a name that is not a mnemonic (R55). -/
theorem assembleRecord_unknownCommand {c : String} (h : assembleRecord r = .error (.unknownCommand c)) :
    r.command = c ∧ resolveCommand c = none := by
  cases hop : resolveCommand r.command with
  | none =>
    simp only [assembleRecord, hop, Except.error.injEq, AsmError.unknownCommand.injEq] at h
    exact ⟨h, h ▸ hop⟩
  | some op =>
    rcases lt_or_ge (r.operand.getD 0) 0 with hneg | hnonneg
    · simp [assembleRecord_of_neg hop hneg] at h
    · simp [assembleRecord_of_nonneg hop hnonneg] at h

/-- A program is accepted when its first record and the others are. -/
theorem assembleProgram_cons_eq_ok_iff :
    assembleProgram (r :: program) = .ok instrs ↔
      ∃ i is, assembleRecord r = .ok i ∧ assembleProgram program = .ok is ∧ instrs = i :: is := by
  rw [assembleProgram]
  cases assembleRecord r with
  | error e => simp
  | ok i =>
    cases assembleProgram program with
    | error e => simp
    | ok is => simp [eq_comm]

/-- A program is accepted as the list of the instructions of its records. -/
theorem assembleProgram_eq_ok_iff :
    assembleProgram program = .ok instrs ↔ List.Forall₂ (fun r i => assembleRecord r = .ok i) program instrs := by
  induction program generalizing instrs with
  | nil => simp [assembleProgram, eq_comm]
  | cons r rest ih => simp only [assembleProgram_cons_eq_ok_iff, List.forall₂_cons_left_iff, ih]

/-- A program is accepted exactly when its every record is well-formed. -/
theorem assembleProgram_isOk_iff : (∃ instrs, assembleProgram program = .ok instrs) ↔ ∀ r ∈ program, r.wf = true := by
  induction program with
  | nil => simp [assembleProgram]
  | cons r rest ih =>
    rw [List.forall_mem_cons, ← ih, ← assembleRecord_isOk_iff]
    constructor
    · rintro ⟨_, h⟩
      obtain ⟨i, is, hi, his, -⟩ := assembleProgram_cons_eq_ok_iff.1 h
      exact ⟨⟨i, hi⟩, ⟨is, his⟩⟩
    · rintro ⟨⟨i, hi⟩, ⟨is, his⟩⟩
      exact ⟨_, assembleProgram_cons_eq_ok_iff.2 ⟨i, is, hi, his, rfl⟩⟩

/-- A program is rejected with the error of one of its records (R55). -/
theorem exists_mem_of_assembleProgram_error (h : assembleProgram program = .error e) :
    ∃ r ∈ program, assembleRecord r = .error e := by
  induction program with
  | nil => cases h
  | cons r rest ih =>
    rw [assembleProgram] at h
    cases hr : assembleRecord r with
    | error e' =>
      rw [hr] at h
      cases h
      exact ⟨r, List.mem_cons_self, hr⟩
    | ok i =>
      cases hrest : assembleProgram rest with
      | error e' =>
        rw [hr, hrest] at h
        cases h
        obtain ⟨r', hmem, hr'⟩ := ih hrest
        exact ⟨r', List.mem_cons_of_mem r hmem, hr'⟩
      | ok is =>
        rw [hr, hrest] at h
        cases h

/-- The stream of an accepted program is that of its instructions (R58). -/
theorem assemble_eq_ok_iff {stream : List Byte} :
    assemble program = .ok stream ↔ ∃ instrs, assembleProgram program = .ok instrs ∧ stream = encodeProgram instrs := by
  rw [assemble]
  cases assembleProgram program <;> simp [eq_comm]

theorem assemble_eq_error_iff : assemble program = .error e ↔ assembleProgram program = .error e := by
  rw [assemble]
  cases assembleProgram program <;> simp

/-- Settles O53, record by record. -/
theorem assemblerAcceptsExactlyWellFormed : Obligations.AssemblerAcceptsExactlyWellFormed := by
  intro program
  refine ⟨?_, fun stream h => ?_, fun c h => ?_⟩
  · rw [← assembleProgram_isOk_iff]
    simp only [assemble_eq_ok_iff]
    exact ⟨fun ⟨_, instrs, h, _⟩ => ⟨instrs, h⟩, fun ⟨instrs, h⟩ => ⟨_, instrs, h, rfl⟩⟩
  · obtain ⟨instrs, hinstrs, rfl⟩ := assemble_eq_ok_iff.1 h
    obtain ⟨hlen, hrecords⟩ := List.forall₂_iff_get.1 (assembleProgram_eq_ok_iff.1 hinstrs)
    refine ⟨instrs, hlen.symm, rfl, fun k r hk => ?_⟩
    obtain ⟨hlt, rfl⟩ := List.getElem?_eq_some_iff.1 hk
    exact ⟨instrs[k], List.getElem?_eq_getElem (hlen ▸ hlt), hrecords k hlt (hlen ▸ hlt)⟩
  · obtain ⟨r, hmem, hr⟩ := exists_mem_of_assembleProgram_error (assemble_eq_error_iff.1 h)
    obtain ⟨hcommand, hnone⟩ := assembleRecord_unknownCommand hr
    exact ⟨resolveCommand_eq_none_iff.1 hnone, r, hmem, hcommand⟩

end Sys2Proof
end

section
/-! Runs of many steps: how they compose, what an invariant of the step says of them, and the stream, which none changes. -/

namespace Sys2Proof.Machine

variable {s t : State} {m n : Nat}

/-- A run of `m + n` steps is a run of `m` and then one of `n`. -/
theorem stepN_add_eq_some : stepN (m + n) s = some t ↔ ∃ u, stepN m s = some u ∧ stepN n u = some t := by
  induction m generalizing s with
  | zero => simp [stepN]
  | succ m ih =>
    rw [Nat.succ_add]
    simp only [stepN_succ_eq_some, ih]
    exact ⟨fun ⟨v, hv, u, hu, ht⟩ => ⟨u, ⟨v, hv, hu⟩, ht⟩, fun ⟨u, ⟨v, hv, hu⟩, ht⟩ => ⟨v, hv, u, hu, ht⟩⟩

theorem stepN_one_eq_some : stepN 1 s = some t ↔ step s = .next t := by
  rw [stepN_succ_eq_some]
  simp [stepN]

/-- A run of `n + 1` steps, by its last one. -/
theorem stepN_succ_eq_some_last : stepN (n + 1) s = some t ↔ ∃ u, stepN n s = some u ∧ step u = .next t := by
  simp only [stepN_add_eq_some, stepN_one_eq_some]

/-- What every step keeps, every run keeps. -/
theorem stepN_keeps {P : State → Prop} (hkeeps : ∀ u v, P u → step u = .next v → P v) (hs : P s)
    (h : stepN n s = some t) : P t := by
  induction n generalizing t with
  | zero => cases h; exact hs
  | succ n ih =>
    obtain ⟨u, hu, hlast⟩ := stepN_succ_eq_some_last.1 h
    exact hkeeps u t (ih hu) hlast

/-- A step is taken in RUNNING only (R65). -/
theorem runState_of_step (h : step s = .next t) : s.runState = .running := (step_cases h).1

/-- Outside RUNNING no step follows (R65). -/
theorem step_ne_next (h : s.runState ≠ .running) (u : State) : step s ≠ .next u := fun hstep => h (runState_of_step hstep)

theorem stepN_succ_eq_none (h : s.runState ≠ .running) : stepN (n + 1) s = none := by
  refine Option.eq_none_iff_forall_ne_some.2 fun t ht => ?_
  obtain ⟨u, hu, -⟩ := stepN_succ_eq_some.1 ht
  exact step_ne_next h u hu

/-- No step writes the stream (R9, R28). -/
theorem step_stream (h : step s = .next t) : t.stream = s.stream := by
  obtain ⟨-, ⟨-, rfl⟩ | ⟨u, hu, ⟨-, rfl⟩ | ⟨-, f, info, rfl⟩⟩⟩ := step_control_cases h
  exacts [rfl, hu.stream, hu.stream]

theorem stepN_stream (h : stepN n s = some t) : t.stream = s.stream :=
  stepN_keeps (P := fun u => u.stream = s.stream) (fun _ _ hu hstep => (step_stream hstep).trans hu) rfl h

/-- Settles O37: no step writes the stream, and fetching looks at the stream and PC alone. -/
theorem fetchNeverSeesAStore : Obligations.FetchNeverSeesAStore :=
  ⟨fun _ _ _ => stepN_stream, fun _ _ _ => rfl⟩

end Sys2Proof.Machine
end

section
/-! The transient latches (R24 to R26): a step writes each before it reads it, so that states which differ in the latches
alone are related by a simulation. -/

namespace Sys2Proof.Machine

variable {s t s' : State}

/-- States that differ in the latches alone have the same ACC, MEM, PC, STATE and stream. -/
theorem State.fields_eq_of_eraseLatches_eq (h : s.eraseLatches = t.eraseLatches) :
    s.acc = t.acc ∧ s.mem = t.mem ∧ s.pc = t.pc ∧ s.runState = t.runState ∧ s.stream = t.stream :=
  ⟨(congrArg State.acc h :), (congrArg State.mem h :), (congrArg State.pc h :), (congrArg State.runState h :),
    (congrArg State.stream h :)⟩

/-- An instruction does the same to two states that differ in the latches alone. -/
theorem exec_simulates {i : Instr} (hst : s.eraseLatches = t.eraseLatches) (h : exec i s = .next s') :
    ∃ t', exec i t = .next t' ∧ s'.eraseLatches = t'.eraseLatches := by
  obtain ⟨hacc, -⟩ := State.fields_eq_of_eraseLatches_eq hst
  cases i with
  | loadConst x =>
    cases h
    exact ⟨_, rfl, congrArg (fun u => (u.setAcc (immediate x)).advance) hst⟩
  | notAcc x =>
    cases h
    exact ⟨_, rfl, congrArg (fun u => (u.setAcc (~~~u.acc)).advance) hst⟩
  | loadMemory x =>
    rcases exec_loadMemory_cases h with ⟨hvalid, rfl⟩ | ⟨hinvalid, rfl⟩
    · exact ⟨_, exec_loadMemory_of_valid x (hacc ▸ hvalid),
        congrArg (fun u => (u.setMar u.acc).loadCell.advance.eraseLatches) hst⟩
    · exact ⟨_, exec_loadMemory_of_invalid x (hacc ▸ hinvalid), congrArg (fun u => u.raise .outOfBounds u.acc) hst⟩
  | storeMemory x =>
    rcases exec_storeMemory_cases h with ⟨hvalid, rfl⟩ | ⟨hinvalid, rfl⟩
    · exact ⟨_, exec_storeMemory_of_valid t hvalid,
        congrArg (fun u => (u.setMar x).storeCell.advance.eraseLatches) hst⟩
    · exact ⟨_, exec_storeMemory_of_invalid t hinvalid, congrArg (fun u => u.raise .outOfBounds x) hst⟩

/-- A step does the same to two states that differ in the latches alone. -/
theorem step_simulates (hst : s.eraseLatches = t.eraseLatches) (h : step s = .next s') :
    ∃ t', step t = .next t' ∧ s'.eraseLatches = t'.eraseLatches := by
  obtain ⟨-, -, hpc, hrunState, hstream⟩ := State.fields_eq_of_eraseLatches_eq hst
  have hlen : s.streamLen = t.streamLen := congrArg List.length hstream
  obtain ⟨hrun, hcases⟩ := step_cases h
  have hrun' : t.runState = .running := hrunState.symm.trans hrun
  rw [hpc, hlen, hstream] at hcases
  rcases hcases with ⟨hend, rfl⟩ | ⟨hlt, hshort, rfl⟩ | ⟨hfits, r, hr, ⟨i, hi, hexec⟩ | ⟨hillegal, rfl⟩⟩
  · exact ⟨_, step_of_end hrun' hend, congrArg State.finish hst⟩
  · exact ⟨_, step_of_tail hrun' hlt hshort, congrArg (fun u => u.raiseTruncated (t.streamLen - t.pc)) hst⟩
  · rw [step_of_decodeRecord_some hrun' hfits hr.symm hi]
    exact exec_simulates (s := s.setIr r) (t := t.setIr r) hst hexec
  · exact ⟨_, step_of_decodeRecord_none hrun' hfits hr.symm hillegal,
      congrArg (fun u => u.raiseUnknown (opcodeField r)) hst⟩

/-- Settles O42, by induction on the number of steps: a step is simulated, and where none is enabled neither is one in the
other state. -/
theorem latchesCarryNothing : Obligations.LatchesCarryNothing := by
  intro n
  induction n with
  | zero => exact fun s t hst => congrArg some hst
  | succ n ih =>
    intro s t hst
    obtain ⟨-, -, -, hrunState, -⟩ := State.fields_eq_of_eraseLatches_eq hst
    by_cases hrun : s.runState = .running
    · obtain ⟨s', hs'⟩ := exists_step_of_running hrun
      obtain ⟨t', ht', hst'⟩ := step_simulates hst hs'
      simp only [stepN, hs', ht']
      exact ih s' t' hst'
    · rw [stepN_succ_eq_none hrun, stepN_succ_eq_none (hrunState ▸ hrun)]

end Sys2Proof.Machine
end

section
/-! The invariant of the block (R14, R19 to R22): reset establishes it and every step keeps it. -/

namespace Sys2Proof.Machine

variable {s t : State}

/-- Reset establishes the invariant, in any state. -/
theorem State.hostReset_inv (s : State) : s.hostReset.Inv where
  memWf := rfl
  pcAligned := rfl
  pcInStream := Nat.zero_le _
  doneAtEnd := nofun
  noFault := fun _ => ⟨rfl, rfl, rfl⟩
  fault := nofun

/-- A boot is a reset. -/
theorem boot_inv (stream : List Byte) : (boot stream).Inv := State.hostReset_inv _

/-- Settles O38: the three states are reset states. -/
theorem resetHasInv : Obligations.ResetHasInv :=
  ⟨State.reset_hostReset ▸ State.reset.hostReset_inv, boot_inv, State.hostReset_inv⟩

/-- Stores to existing cells keep the canonical form. -/
theorem Memory.wf_applyStores {m : Memory} {stores : List (Nat × Word)} (hwf : Memory.wf m = true)
    (hcells : ∀ store ∈ stores, store.1 < Config.memSize) : Memory.wf (Memory.applyStores m stores) = true := by
  induction stores generalizing m with
  | nil => exact hwf
  | cons store rest ih =>
    obtain ⟨ha, hrest⟩ := List.forall_mem_cons.1 hcells
    exact ih (Memory.wfFrom_write store.2 hwf store.1.zero_le ha) hrest

/-- Every step keeps the canonical form of memory. -/
theorem step_keeps_memWf (hwf : Memory.wf s.mem = true) (h : step s = .next t) : Memory.wf t.mem = true := by
  rw [step_mem h]
  exact Memory.wf_applyStores hwf fun _ hmem => State.storeMade_lt (Option.mem_toList.1 hmem)

/-- A step that enters FAULT leaves ACC, MEM, PC and the stream (R97). -/
theorem step_fault_frame (h : step s = .next t) (hfault : t.runState = .fault) :
    t.acc = s.acc ∧ t.mem = s.mem ∧ t.pc = s.pc ∧ t.stream = s.stream := by
  obtain ⟨f, info, hentry⟩ := faultEntryWritesOnlyFaultFields.2 s t h hfault
  obtain ⟨hacc, hmem, hpc, -, hstream⟩ := State.fields_eq_of_eraseLatches_eq hentry
  exact ⟨hacc, hmem, hpc, hstream⟩

/-- A step that enters FAULT explains its CAUSE and its FAULT_INFO by what stands at PC. -/
theorem step_faultExplained (h : step s = .next t) (hfault : t.runState = .fault) : t.faultExplained := by
  obtain ⟨hacc, -, hpc, hstream⟩ := step_fault_frame h hfault
  have hcauses := exactlyThreeRunFaults.2 s t h hfault
  rw [← hacc, ← hpc, ← hstream] at hcauses
  rcases hcauses with ⟨hcause, htail⟩ | ⟨hcause, hunknown⟩ | ⟨hcause, hinfo, haddress⟩
  · rw [State.faultExplained, hcause]
    exact htail
  · rw [State.faultExplained, hcause]
    exact hunknown
  · rw [State.faultExplained, hcause]
    exact ⟨hinfo, haddress.imp_right fun ⟨x, hx, hxinfo⟩ => ⟨x, hx, congrArg BitVec.toNat hxinfo⟩⟩

/-- PC keeps to record boundaries within the stream, and DONE is entered at its end (R14, R66). -/
theorem step_keeps_pc_bounds (hinv : s.Inv) (h : step s = .next t) :
    t.pc % 5 = 0 ∧ t.pc ≤ t.streamLen ∧ (t.runState = .done → t.pc = t.streamLen) := by
  have haligned : s.pc % 5 = 0 := hinv.pcAligned
  have hinStream := hinv.pcInStream
  have hlen : t.streamLen = s.streamLen := congrArg List.length (step_stream h)
  obtain ⟨hrun, ⟨hend, rfl⟩ | ⟨u, hu, ⟨hfits, rfl⟩ | ⟨hlt, f, info, rfl⟩⟩⟩ := step_control_cases h
  · exact ⟨haligned, hinStream, fun _ => le_antisymm hinStream hend⟩
  · have hpc : u.advance.pc = s.pc + 5 := congrArg (· + 5) hu.pc
    exact ⟨by omega, by omega, fun hdone => by simp [hu.runState, hrun] at hdone⟩
  · have hpc : (u.raise f info).pc = s.pc := hu.pc
    exact ⟨by omega, by omega, nofun⟩

/-- Settles O39, part by part of the invariant. -/
theorem stepKeepsInv : Obligations.StepKeepsInv := by
  intro s t hinv h
  obtain ⟨haligned, hinStream, hdoneAtEnd⟩ := step_keeps_pc_bounds hinv h
  obtain ⟨hfaultPc, hatPc, hkeeps⟩ := faultFieldsWrittenOnlyByFaultEntry.1 s t h
  have hrun := runState_of_step h
  obtain ⟨hcause, hpcZero, hinfo⟩ := hinv.noFault (by simp [hrun])
  exact {
    memWf := step_keeps_memWf hinv.memWf h
    pcAligned := haligned
    pcInStream := hinStream
    doneAtEnd := hdoneAtEnd
    noFault := fun hne =>
      have ⟨hcause', hinfo'⟩ := hkeeps hne
      ⟨hcause'.trans hcause, (hfaultPc.trans (if_neg hne)).trans hpcZero, hinfo'.trans hinfo⟩
    fault := fun hfault => ⟨hatPc hfault, step_faultExplained h hfault⟩ }

/-- Every state of a run from a boot has the invariant. -/
theorem stepN_boot_inv {n : Nat} {stream : List Byte} (h : stepN n (boot stream) = some t) : t.Inv :=
  stepN_keeps stepKeepsInv (boot_inv stream) h

/-- Settles O44: PC stays within the stream, whose length the build accepted. -/
theorem pcNeverWraps : Obligations.PcNeverWraps := by
  intro k stream s t n hlaunch hrun
  have hpos : 0 < 2 ^ k := Nat.two_pow_pos k
  by_cases hfits : stream.length ≤ 2 ^ k - 1
  · obtain rfl : boot stream = s := Host.Outcome.next.inj ((launch_of_fits hfits).symm.trans hlaunch)
    have hpc : t.pc ≤ t.stream.length := (stepN_boot_inv hrun).pcInStream
    rw [stepN_stream hrun, boot_stream] at hpc
    omega
  · rw [launch_of_too_long (Nat.lt_of_not_le hfits)] at hlaunch
    cases hlaunch

end Sys2Proof.Machine
end

section
/-! Precision (R97 to R99): the step that stays RUNNING has completed its record, the step that enters FAULT has done fault
entry alone, and after FAULT or DONE there is no step. -/

namespace Sys2Proof.Machine

variable {s t : State}

/-- A step that stays RUNNING has run the instruction at PC to its end. -/
theorem step_running (h : step s = .next t) (hrun : t.runState = .running) :
    (∃ i, decode (s.stream.drop s.pc) = .ok i ∧
      exec i (s.setIr (packRecord ((s.stream.drop s.pc).take 5))) = .next t) ∧ t.pc = s.pc + 5 := by
  refine ⟨?_, (pcChangesOnlyByAdvanceAndReset.1 s t h).1 hrun⟩
  rcases step_decode_cases h with ⟨left, -, -, rfl | rfl⟩ | ⟨i, hi, -, hexec⟩ | ⟨b, -, -, rfl⟩
  · cases hrun
  · cases hrun
  · exact ⟨i, hi, hexec⟩
  · cases hrun

/-- A step that enters FAULT or stays RUNNING stands within the stream. -/
theorem step_pc_lt (h : step s = .next t) (hdone : t.runState ≠ .done) : s.pc < s.streamLen := by
  obtain ⟨-, ⟨-, rfl⟩ | ⟨u, -, ⟨hfits, -⟩ | ⟨hlt, -⟩⟩⟩ := step_control_cases h
  · exact absurd rfl hdone
  · omega
  · exact hlt

/-- A step that ends in DONE is the terminating transition (R66). -/
theorem step_done (h : step s = .next t) (hdone : t.runState = .done) : s.streamLen ≤ s.pc ∧ t = s.finish := by
  obtain ⟨hrun, hend | ⟨u, hu, ⟨-, rfl⟩ | ⟨-, f, info, rfl⟩⟩⟩ := step_control_cases h
  · exact hend
  · simp [hu.runState, hrun] at hdone
  · simp at hdone

/-- Settles O56, by the STATE that the step leaves. -/
theorem eachStepCompletesOrFaultsPrecisely : Obligations.EachStepCompletesOrFaultsPrecisely := by
  intro s t hinv h
  have hinv' : t.Inv := stepKeepsInv s t hinv h
  have hlen : t.streamLen = s.stream.length := congrArg List.length (step_stream h)
  cases ht : t.runState with
  | running =>
    obtain ⟨hinstr, hpc⟩ := step_running h ht
    exact ⟨hinstr, hpc, hlen ▸ hinv'.pcInStream, hinv'.noFault (by simp [ht])⟩
  | fault =>
    have hfaultPc : t.faultPc = s.pc := (faultFieldsWrittenOnlyByFaultEntry.1 s t h).1.trans (if_pos ht)
    refine ⟨faultEntryWritesOnlyFaultFields.2 s t h ht, hfaultPc, ?_, ?_, step_ne_next (by simp [ht])⟩
    · rw [hfaultPc]
      exact hinv.pcAligned
    · rw [hfaultPc]
      exact step_pc_lt h (by simp [ht])
  | done =>
    obtain ⟨-, hfinish⟩ := step_done h ht
    exact ⟨hfinish ▸ rfl, hlen ▸ hinv'.doneAtEnd ht, step_ne_next (by simp [ht])⟩

end Sys2Proof.Machine
end

section
/-! Encoded programs (R53, R58): at every multiple of 5 within the stream stands the record of an instruction, so that only
its address can be at fault. -/

namespace Sys2Proof.Machine

variable {s t : State} {program : List Instr}

/-- At a record boundary within the stream of a program stands an instruction. -/
theorem decode_encodeProgram_drop {pc : Nat} (haligned : pc % 5 = 0) (hlt : pc < (encodeProgram program).length) :
    ∃ i, decode ((encodeProgram program).drop pc) = .ok i := by
  obtain ⟨k, rfl⟩ := Nat.dvd_of_mod_eq_zero haligned
  rw [encodeProgram_length] at hlt
  have hk : k < program.length := by omega
  refine ⟨program[k], ?_⟩
  rw [encodeProgram_drop, List.drop_eq_getElem_cons hk, encodeProgram_cons]
  exact decodeEncode program[k] _

/-- Over the stream of a program, a fault is an OutOfBounds. -/
theorem step_fault_cause_of_program (hinv : s.Inv) (hstream : s.stream = encodeProgram program) (h : step s = .next t)
    (hfault : t.runState = .fault) : t.cause = .outOfBounds := by
  have hlt : s.pc < s.stream.length := step_pc_lt h (by simp [hfault])
  obtain ⟨i, hi⟩ : ∃ i, decode (s.stream.drop s.pc) = .ok i := by
    rw [hstream] at hlt ⊢
    exact decode_encodeProgram_drop hinv.pcAligned hlt
  obtain ⟨hfits, -⟩ := decode_eq_ok_iff.1 hi
  rw [List.length_drop] at hfits
  rcases exactlyThreeRunFaults.2 s t h hfault with ⟨-, -, hshort, -⟩ | ⟨-, b, hunknown, -⟩ | ⟨hcause, -⟩
  · omega
  · rw [hi] at hunknown
    cases hunknown
  · exact hcause

/-- What O57 says of a state: the invariant, the stream of `program`, and CAUSE at NONE or OUT_OF_BOUNDS. -/
def State.RunsProgram (program : List Instr) (s : State) : Prop :=
  s.Inv ∧ s.stream = encodeProgram program ∧ (s.cause = .none ∨ s.cause = .outOfBounds)

/-- Fault entry records OutOfBounds, and any other step leaves CAUSE. -/
theorem step_keeps_runsProgram (hs : s.RunsProgram program) (h : step s = .next t) : t.RunsProgram program := by
  obtain ⟨hinv, hstream, hcause⟩ := hs
  refine ⟨stepKeepsInv s t hinv h, (step_stream h).trans hstream, ?_⟩
  by_cases hfault : t.runState = .fault
  · exact .inr (step_fault_cause_of_program hinv hstream h hfault)
  · obtain ⟨-, -, hkeeps⟩ := faultFieldsWrittenOnlyByFaultEntry.1 s t h
    obtain ⟨hkept, -⟩ := hkeeps hfault
    rw [hkept]
    exact hcause

/-- Settles O57, by the invariant that it spells out. -/
theorem encodedStreamKeepsCauseInv : Obligations.EncodedStreamKeepsCauseInv :=
  fun _ _ _ hinv hstream hcause => step_keeps_runsProgram ⟨hinv, hstream, hcause⟩

/-- Settles O45: a boot meets the invariant of O57, and every step keeps it. -/
theorem encodedProgramsAreNeverMalformed : Obligations.EncodedProgramsAreNeverMalformed := by
  intro program n t hrun
  have hboot : (boot (encodeProgram program)).RunsProgram program := ⟨boot_inv _, rfl, .inl rfl⟩
  obtain ⟨-, -, hcause⟩ := stepN_keeps (fun _ _ => step_keeps_runsProgram) hboot hrun
  exact hcause

end Sys2Proof.Machine
end

section
/-! Whole runs: every run ends, in a number of steps that the stream fixes, and a fault of a run is precise. -/

namespace Sys2Proof.Machine

variable {s t : State} {n : Nat}

/-- A run that is still RUNNING has completed a record in each step. -/
theorem stepN_pc_of_running (h : stepN n s = some t) (hrun : t.runState = .running) : t.pc = s.pc + 5 * n := by
  induction n generalizing t with
  | zero => cases h; rfl
  | succ n ih =>
    obtain ⟨u, hu, hlast⟩ := stepN_succ_eq_some_last.1 h
    obtain ⟨-, hpc⟩ := step_running hlast hrun
    have hpcBefore := ih hu (runState_of_step hlast)
    omega

/-- A run with `m` records or fewer left ends within `m + 1` steps. -/
theorem exists_stepN_not_running {m : Nat} (hrun : s.runState = .running) (hm : (s.streamLen - s.pc) / 5 ≤ m) :
    ∃ n t, n ≤ m + 1 ∧ stepN n s = some t ∧ t.runState ≠ .running := by
  induction m generalizing s with
  | zero =>
    obtain ⟨t, ht⟩ := exists_step_of_running hrun
    refine ⟨1, t, le_rfl, stepN_one_eq_some.2 ht, fun hrun' => ?_⟩
    obtain ⟨-, ⟨-, rfl⟩ | ⟨u, -, ⟨hfits, -⟩ | ⟨-, f, info, rfl⟩⟩⟩ := step_control_cases ht
    · cases hrun'
    · omega
    · cases hrun'
  | succ m ih =>
    obtain ⟨u, hu⟩ := exists_step_of_running hrun
    by_cases hrun' : u.runState = .running
    · obtain ⟨-, hpc⟩ := step_running hu hrun'
      have hlen : u.streamLen = s.streamLen := congrArg List.length (step_stream hu)
      obtain ⟨n, t, hn, hstepN, hend⟩ := ih hrun' (by omega)
      exact ⟨n + 1, t, Nat.succ_le_succ hn, stepN_succ_eq_some.2 ⟨u, hu, hstepN⟩, hend⟩
    · exact ⟨1, u, by omega, stepN_one_eq_some.2 hu, hrun'⟩

/-- A run over `k` complete records without a fault is RUNNING after them. -/
theorem exists_stepN_running {k : Nat} (hrun : s.runState = .running) (hlen : s.pc + 5 * k ≤ s.streamLen)
    (hnoFault : ∀ j t, stepN j s = some t → t.runState ≠ .fault) :
    ∃ t, stepN k s = some t ∧ t.runState = .running := by
  induction k with
  | zero => exact ⟨s, rfl, hrun⟩
  | succ k ih =>
    obtain ⟨u, hu, hurun⟩ := ih (by omega)
    have hpc := stepN_pc_of_running hu hurun
    have hulen : u.streamLen = s.streamLen := congrArg List.length (stepN_stream hu)
    obtain ⟨v, hv, hnext | ⟨f, info, -, hraise⟩⟩ := step_of_record hurun (by omega)
    · exact ⟨_, stepN_succ_eq_some_last.2 ⟨u, hu, hnext⟩, hv.runState.trans hurun⟩
    · exact absurd rfl (hnoFault (k + 1) _ (stepN_succ_eq_some_last.2 ⟨u, hu, hraise⟩))

/-- Settles O40: the progress of one step, the bound by induction on the records left, and the exact count for a stream of
complete records. -/
theorem everyRunEnds : Obligations.EveryRunEnds := by
  refine ⟨fun s t h hrun => ?_, fun s hrun => exists_stepN_not_running hrun le_rfl, fun n stream hlen hnoFault => ?_⟩
  · obtain ⟨⟨i, hi, -⟩, hpc⟩ := step_running h hrun
    obtain ⟨hfits, -⟩ := decode_eq_ok_iff.1 hi
    rw [List.length_drop] at hfits
    rw [step_stream h]
    exact ⟨hpc, by omega, rfl⟩
  · have hruns (k : Nat) (hk : k ≤ n) :
        ∃ t, stepN k (boot stream) = some t ∧ t.runState = .running ∧ t.pc = 5 * k := by
      have hfits : (boot stream).pc + 5 * k ≤ (boot stream).streamLen := by
        show 0 + 5 * k ≤ stream.length
        omega
      obtain ⟨t, ht, hrun⟩ := exists_stepN_running rfl hfits hnoFault
      exact ⟨t, ht, hrun, (stepN_pc_of_running ht hrun).trans (Nat.zero_add _)⟩
    obtain ⟨t, ht, hrun, hpc⟩ := hruns n le_rfl
    have hend : t.pc = stream.length := hpc.trans hlen.symm
    have htlen : t.streamLen = stream.length := congrArg List.length (stepN_stream ht)
    have hlast : step t = .next t.finish := step_of_end hrun (htlen.trans hend.symm).le
    exact ⟨hruns, t.finish, stepN_succ_eq_some_last.2 ⟨t, ht, hlast⟩, rfl, hend⟩

/-- Settles O41: a run that ends in FAULT has entered it in its last step, and was RUNNING before each of its steps. -/
theorem faultsArePrecise : Obligations.FaultsArePrecise := by
  intro stream n t h hfault
  cases n with
  | zero =>
    cases h
    cases hfault
  | succ m =>
    obtain ⟨u, hu, hlast⟩ := stepN_succ_eq_some_last.1 h
    have hurun := runState_of_step hlast
    obtain ⟨hacc, hmem, hpc, -⟩ := step_fault_frame hlast hfault
    have hupc : u.pc = 5 * m := (stepN_pc_of_running hu hurun).trans (Nat.zero_add _)
    have hfaultPc : t.faultPc = t.pc := (faultFieldsWrittenOnlyByFaultEntry.1 u t hlast).2.1 hfault
    have hstuck : stepN (m + 1 + 1) (boot stream) = none := by
      refine Option.eq_none_iff_forall_ne_some.2 fun v hv => ?_
      obtain ⟨t', ht', hnext⟩ := stepN_succ_eq_some_last.1 hv
      cases h.symm.trans ht'
      exact step_ne_next (by simp [hfault]) v hnext
    refine ⟨m, u, rfl, hu, hurun, by omega, by omega, hacc, hmem, hstuck, fun k hk => ?_⟩
    obtain ⟨j, rfl⟩ := Nat.exists_eq_add_of_le hk
    obtain ⟨v, hv, hrest⟩ := stepN_add_eq_some.1 ((Nat.add_assoc k j 1) ▸ h)
    obtain ⟨w, hw, -⟩ := stepN_succ_eq_some.1 hrest
    have hvrun := runState_of_step hw
    exact ⟨v, hv, hvrun, (stepN_pc_of_running hv hvrun).trans (Nat.zero_add _)⟩

end Sys2Proof.Machine
end
